-- ==== Sys2Proof/Word.lean ====
section
/-!
DEFINITION. The words of TTS-CORE: bytes, window addresses and the fixed-length byte strings of 00_scope.md R8 and R9.
A byte string is written byte 0 first (R9), so element `i` of a vector is byte `i` of the buffer.
-/

namespace Sys2Proof

/-- R9: a byte is 8 bits, bit 0 the least significant. -/
abbrev Byte := BitVec 8

/-- R60: an address of the 128-byte register window is 7 bits. -/
abbrev Addr := BitVec 7

/-- R8 `PAYLOAD_LEN`: 15 bytes, the length of `PBUF` and of `OBUF`. -/
abbrev Payload := Vector Byte 15

/-- R8 `NONCE_LEN` and `KEY_LEN`: 16 bytes, the length of a cipher block, of the nonce and of the key. -/
abbrev Block := Vector Byte 16

/-- R8 `RECORD_LEN`: 21 bytes, the EncryptedRecord. -/
abbrev Record := Vector Byte 21

end Sys2Proof
end

