-- ==== Sys2Proof/Syntax.lean ====
section
/-!
DEFINITION. The syntax of TTS-CORE: the seven commands of spec/opcode_table.json, the host's events at the port, the
locations of the register window (10_state.md R21) and the host-transaction lines of 30_encoding.md R97.
-/

namespace Sys2Proof

/-- R80, R98: the seven commands. A command has no operand field; every operand is an implicit register. -/
inductive Instr where
  /-- R174. -/
  | nop
  /-- R115: the Field Packer. -/
  | pack
  /-- R131: the Nonce Builder. -/
  | nonce
  /-- R145: the Cipher Stage. -/
  | crypt
  /-- R160: all three stages. -/
  | encode
  /-- R175. -/
  | keyclr
  /-- R176. -/
  | srst
  deriving DecidableEq, Repr

/-- What reaches the block from outside, one at a time: a byte read or a byte write at the host port (R20, R60), or the
platform's reset (R220). -/
inductive HostEvent where
  /-- R60: `MemRead(a, 1)`. -/
  | read (a : Addr)
  /-- R60: `MemWrite(a, 1, v)`. -/
  | write (a : Addr) (v : Byte)
  /-- R220: hardware reset, atomic with respect to the accesses. -/
  | reset
  deriving DecidableEq, Repr

/-- R21: what stands at an address of the window. A multi-byte register's location carries the byte's number, 0 the
least significant (R61). -/
inductive Loc where
  | cmd
  | status
  | err
  | rfield
  | keyin
  | keycnt
  | rectype
  | modelid (i : Fin 2)
  | readout
  | iv (i : Fin 2)
  | ttg (i : Fin 2)
  | volt (i : Fin 4)
  | alarm (i : Fin 2)
  | aux (i : Fin 4)
  | curr (i : Fin 4)
  | cons (i : Fin 4)
  | soc (i : Fin 4)
  | pbuf (i : Fin 15)
  | nonce (i : Fin 16)
  | out (i : Fin 21)
  | reserved
  deriving DecidableEq, Repr

/-- The register names of R21 that have an address, for the lines of R97. -/
inductive RegName where
  | CMD | STATUS | ERR | RFIELD | KEYIN | KEYCNT | RECTYPE | MODELID | READOUT | IV
  | R_TTG | R_VOLT | R_ALARM | R_AUX | R_CURR | R_CONS | R_SOC | PBUF | NONCE | OUT
  deriving DecidableEq, Repr

/-- R97: the address of a line, a number or a register name with a byte offset. DESIGN CHOICE (log 10): every line that has
an address takes either kind, and the offset is bounded by the window alone. -/
inductive Target where
  | num (a : Nat)
  | reg (r : RegName) (offset : Nat)
  deriving DecidableEq, Repr

/-- R97 `WQ`: a decimal, `mantissa / 10 ^ places`. -/
structure Decimal where
  mantissa : Int
  places : Nat
  deriving DecidableEq, Repr

/-- R97: one line of a program of host accesses, the primitive lines and the pseudo-lines. -/
inductive HostLine where
  /-- `W a, v`. -/
  | w (a : Target) (v : Nat)
  /-- `R a`, or `R a = v` with the value the rules predict. -/
  | r (a : Target) (expected : Option Byte)
  /-- `CMD name`. -/
  | cmd (i : Instr)
  /-- `W16 reg, v`. -/
  | w16 (a : Target) (v : Nat)
  /-- `W32 reg, v`. -/
  | w32 (a : Target) (v : Nat)
  /-- `WQ reg, d`. -/
  | wq (a : Target) (d : Decimal)
  /-- `KEY h`, the bytes of the hexadecimal string in order. -/
  | key (h : List Byte)
  /-- `WBUF b0 … b14`. -/
  | wbuf (bs : List Byte)
  /-- `RBUF name, n`. -/
  | rbuf (a : Target) (n : Nat)
  deriving DecidableEq, Repr

end Sys2Proof
end

