-- ==== Sys2Proof/Decode.lean ====
section
/-!
DEFINITION. Decoding and encoding of commands (30_encoding.md R80, R81; spec/opcode_table.json, `mask` 0xFF in every row).
-/

namespace Sys2Proof

/-- Why a command byte is no command of the table. -/
inductive DecodeReject where
  /-- R81, R95 (a): the codes 0x07 to 0xFF, the Illegal command of R177. -/
  | illegalCommand (code : Byte)
  deriving DecidableEq, Repr

/-- R81: the whole byte is compared against the seven defined codes; every other byte is the Illegal command. -/
def decode (c : Byte) : Except DecodeReject Instr :=
  if c = 0x00 then .ok .nop
  else if c = 0x01 then .ok .pack
  else if c = 0x02 then .ok .nonce
  else if c = 0x03 then .ok .crypt
  else if c = 0x04 then .ok .encode
  else if c = 0x05 then .ok .keyclr
  else if c = 0x06 then .ok .srst
  else .error (.illegalCommand c)

/-- R80: the code of a command. -/
def encode : Instr → Byte
  | .nop => 0x00
  | .pack => 0x01
  | .nonce => 0x02
  | .crypt => 0x03
  | .encode => 0x04
  | .keyclr => 0x05
  | .srst => 0x06

/-- The command byte whose low `nbits` bits are those of `w`, every bit above them 0. Every command is one byte (R96). -/
def tableByte (nbits w : Nat) : Byte := BitVec.ofNat 8 (w % 2 ^ nbits)

/-- The instruction the decoder reads from the table word `w` of `nbits` bits. -/
def decodeTableWord (nbits w : Nat) : Option Instr :=
  match decode (tableByte nbits w) with
  | .ok i => some i
  | .error _ => none

end Sys2Proof
end

