-- ==== Sys2Proof/Config.lean ====
section
/-!
DEFINITION. The implementation parameters of 00_scope.md R8 (and 10_state.md R43). The two that the spec leaves OPEN,
`BLOCK_ENC` and `RECORD_TYPE`, are opaque constants: nothing can evaluate them and no proof can rest on a value of theirs.
-/

namespace Sys2Proof.Config

/-- R8, R148: `BLOCK_ENC`, OPEN, the forward block-cipher function: key, then block. Assumption log 3. -/
opaque blockEnc : Block → Block → Block

/-- R8, R36: `RECORD_TYPE`, OPEN, an 8-bit constant. Assumption log 4. -/
opaque recordType : Byte

/-- R12: how `round` breaks an exact tie. -/
inductive TieRule where
  /-- R12: the tie goes to the even integer. -/
  | halfToEven
  /-- R12, the alternative a model may take: the tie goes away from zero. -/
  | halfAwayFromZero
  deriving DecidableEq, Repr

/-- R8 `TIE_RULE`: half-to-even. Assumption log 5. -/
abbrev tieRule : TieRule := .halfToEven

/-- R8 `PAYLOAD_LEN`. -/
abbrev payloadLen : Nat := 15
/-- R8 `NONCE_LEN`. -/
abbrev nonceLen : Nat := 16
/-- R8 `KEY_LEN`. -/
abbrev keyLen : Nat := 16
/-- R8 `HEADER_LEN`. -/
abbrev headerLen : Nat := 6
/-- R8 `RECORD_LEN`. -/
abbrev recordLen : Nat := 21
/-- R8 `N_FIELDS`. -/
abbrev nFields : Nat := 7
/-- R8 `SOC_MASK`. -/
abbrev socMask : Nat := 0x3FFF
/-- R8 `TTG_UNKNOWN`: the hardware does not interpret it. -/
abbrev ttgUnknown : Nat := 0xFFFF
/-- R8 `IN_WIDTH`. -/
abbrev inWidth : Nat := 32
/-- R8 `IN_FRAC`. -/
abbrev inFrac : Nat := 16
/-- R8 `WINDOW_LEN`. -/
abbrev windowLen : Nat := 128

end Sys2Proof.Config
end

