-- ==== Sys2Proof/Machine/State.lean ====
section
/-!
DEFINITION. The state of TTS-CORE (10_state.md R21 and R42) and its value after hardware reset (R45).
-/

namespace Sys2Proof.Machine

/-- The state of the machine: every location of R21 that has storage, the hidden registers of R42, and the host port. -/
structure State where
  /-- R31: the outcome of the most recent command other than `NOP`. -/
  err : Byte
  /-- R32: the fields that failed the range check. -/
  rfield : Byte
  /-- R35: the count of key bytes pushed, 0 to 17. Bits 7:5 of the byte the host reads are 0. -/
  keyCnt : BitVec 5
  /-- R35: the key, `KEY[0]` first. It has no address. -/
  key : Block
  /-- R24. -/
  modelId : BitVec 16
  /-- R24. -/
  readout : Byte
  /-- R24. -/
  iv : BitVec 16
  /-- R22, field 0: minutes, an unsigned integer. -/
  rTtg : BitVec 16
  /-- R22, field 1: volts, Q16.16 two's complement (R82). -/
  rVolt : BitVec 32
  /-- R22, field 2: the alarm bit mask. -/
  rAlarm : BitVec 16
  /-- R22, field 3: volts, Q16.16. -/
  rAux : BitVec 32
  /-- R22, field 4: amperes, Q16.16. -/
  rCurr : BitVec 32
  /-- R22, field 5: ampere-hours, Q16.16. -/
  rCons : BitVec 32
  /-- R22, field 6: percent, Q16.16, stored signed (R23). -/
  rSoc : BitVec 32
  /-- R37: the payload buffer. -/
  pbuf : Payload
  /-- R38: the nonce, the initial counter block. -/
  nonce : Block
  /-- R39: the cipher output buffer, seen as `OUT[6..20]`. -/
  obuf : Payload
  /-- R27. -/
  pvalid : Bool
  /-- R28. -/
  nvalid : Bool
  /-- R29. -/
  ovalid : Bool
  /-- R42, R141: the hidden counter block. No rule reads it at the start of a command. Assumption log 1. -/
  ctr : Block
  /-- R42, R141: the hidden keystream block. Assumption log 1. -/
  ks : Block
  /-- The model's own field: what the host (and the platform's reset) will deliver to the port, oldest first (R68, R235).
  Assumption log 2. -/
  pending : List HostEvent
  /-- The model's own field: the byte the last delivered access returned, if it was a read (R20). Assumption log 2. -/
  readData : Option Byte
  deriving DecidableEq, Repr

/-- TTS-CORE has no fault: every host access has a defined next state (R20), and each error is a defined result written to
`ERR` (R199). So no constructor stands here and nothing raises one; that is what R199 says ("the model has no such outcomes
at all"), so it is no difference from the spec. -/
inductive Fault
  deriving DecidableEq, Repr

/-- The reasons the model gives no meaning. -/
inductive Refusal where
  /-- Raised by an arm of `exec` for a command with no meaning yet; no arm is in that case. Safe: the model stops. -/
  | notModelled (mnemonic : String)
  deriving DecidableEq, Repr

/-- R45: after hardware reset every stored bit is 0. `ctr` and `ks`, for which R42 gives no value, are 0 (DESIGN CHOICE,
assumption log 1); the host has issued no access (DESIGN CHOICE, assumption log 2). -/
def State.reset : State where
  err := 0
  rfield := 0
  keyCnt := 0
  key := Vector.replicate 16 0
  modelId := 0
  readout := 0
  iv := 0
  rTtg := 0
  rVolt := 0
  rAlarm := 0
  rAux := 0
  rCurr := 0
  rCons := 0
  rSoc := 0
  pbuf := Vector.replicate 15 0
  nonce := Vector.replicate 16 0
  obuf := Vector.replicate 15 0
  pvalid := false
  nvalid := false
  ovalid := false
  ctr := Vector.replicate 16 0
  ks := Vector.replicate 16 0
  pending := []
  readData := none

end Sys2Proof.Machine
end

