-- ==== Sys2Proof/Machine/Operands.lean ====
section
/-!
DEFINITION. The operand forms and the pure arithmetic of the commands: integers and byte strings (00_scope.md R10 to R12),
the field descriptor table, scaling, range check and payload (30_encoding.md R82 to R90, R93), nonce and record (R91, R92),
counter mode (42_cipher_stage.md R141 to R143), and the bytes of a multi-byte register (20_memory.md R61, R62).
Every intermediate integer is an `Int`: no rule wraps by accident (R10). `sint_W` of a register is `BitVec.toInt`.
-/

namespace Sys2Proof.Machine

/-! ## Integers and byte strings (R10, R11) -/

/-- R10 `uint(B)`: the unsigned value of a little-endian byte string. -/
def uintLE : List Byte → Nat
  | [] => 0
  | b :: bs => b.toNat + 256 * uintLE bs

/-- R10 `sint_W(u)`: the `w`-bit unsigned value `u` read as two's complement. -/
def sintOf (w u : Nat) : Int := if u < 2 ^ (w - 1) then u else u - 2 ^ w

/-- R10 `le_n(v)`: the `n`-byte little-endian two's-complement encoding of the integer `v`. -/
def le (n : Nat) (v : Int) : Vector Byte n :=
  Vector.ofFn fun i => BitVec.ofInt 8 (v % 2 ^ (8 * n) / 2 ^ (8 * i.val))

/-- R11 `fits_s(v, W)`. -/
def fitsS (v : Int) (w : Nat) : Bool := decide (-2 ^ (w - 1) ≤ v) && decide (v ≤ 2 ^ (w - 1) - 1)

/-- R11 `fits_u(v, W)`. -/
def fitsU (v : Int) (w : Nat) : Bool := decide (0 ≤ v) && decide (v ≤ 2 ^ w - 1)

/-! ## Rounding and scaling (R12, R84, R112) -/

/-- R12: the rational `t / 2 ^ f` rounded to the nearest integer, an exact tie as the tie rule says. `/` and `%` are floor
division and its non-negative remainder. -/
def roundTo (tie : Config.TieRule) (t : Int) (f : Nat) : Int :=
  let q := t / 2 ^ f
  let r := t % 2 ^ f
  let h : Int := 2 ^ (f - 1)
  if h < r then q + 1
  else if r < h then q
  else match tie with
    | .halfToEven => if q % 2 = 0 then q else q + 1
    | .halfAwayFromZero => if 0 ≤ t then q + 1 else q

/-- R12 `rne(t, f)`: the tie goes to the even integer. -/
def rne (t : Int) (f : Nat) : Int := roundTo .halfToEven t f

/-- R84 with the tie rule as a parameter: the exact product of a Q16.16 register's value and the scale `S`, rounded. -/
def quantWith (tie : Config.TieRule) (r : BitVec 32) (scale : Nat) : Int :=
  roundTo tie (r.toInt * scale) Config.inFrac

/-- R84 `quant(r, S)`, with `TIE_RULE` as R8 fixes it. -/
def quant (r : BitVec 32) (scale : Nat) : Int := quantWith Config.tieRule r scale

/-! ## The field descriptor table (R83) -/

/-- R83: one row of the field table. `scaled` is the input format: Q16.16 (true) or unsigned 16-bit integer (false). -/
structure FieldDesc where
  scaled : Bool
  scale : Nat
  signed : Bool
  width : Nat
  offset : Nat
  bytes : Nat
  mask : Option Nat
  deriving DecidableEq, Repr

/-- R83: the seven field descriptors, in payload order. -/
def fieldDesc : Fin 7 → FieldDesc
  | 0 => { scaled := false, scale := 1, signed := false, width := 16, offset := 0, bytes := 2, mask := none }
  | 1 => { scaled := true, scale := 100, signed := true, width := 16, offset := 2, bytes := 2, mask := none }
  | 2 => { scaled := false, scale := 1, signed := false, width := 16, offset := 4, bytes := 2, mask := none }
  | 3 => { scaled := true, scale := 100, signed := true, width := 16, offset := 6, bytes := 2, mask := none }
  | 4 => { scaled := true, scale := 1000, signed := true, width := 24, offset := 8, bytes := 3, mask := none }
  | 5 => { scaled := true, scale := 10, signed := true, width := 16, offset := 11, bytes := 2, mask := none }
  | 6 => { scaled := true, scale := 10, signed := false, width := 16, offset := 13, bytes := 2,
           mask := some Config.socMask }

/-- R22, R83: the reading register of field `k`, a 16-bit one with zeros above. -/
def fieldReg (s : State) : Fin 7 → BitVec 32
  | 0 => s.rTtg.zeroExtend 32
  | 1 => s.rVolt
  | 2 => s.rAlarm.zeroExtend 32
  | 3 => s.rAux
  | 4 => s.rCurr
  | 5 => s.rCons
  | 6 => s.rSoc

/-- R84: the scaled value `v_k` of a register's contents: rounded for a scaled field, the unsigned register itself for an
integer field. -/
def laneValue (k : Fin 7) (r : BitVec 32) : Int :=
  if (fieldDesc k).scaled then quant r (fieldDesc k).scale else r.toNat

/-- R84, R115: the values `v[0..6]` of the reading registers as they stand. -/
def fieldValues (s : State) (k : Fin 7) : Int := laneValue k (fieldReg s k)

/-- R85: field `k` passes the range check. -/
def laneFits (k : Fin 7) (v : Int) : Bool :=
  if (fieldDesc k).signed then fitsS v (fieldDesc k).width else fitsU v (fieldDesc k).width

/-- R86, R87: the field value `f_k` that is encoded, masked where the table has a mask. -/
def fieldBits (k : Fin 7) (v : Int) : Int :=
  match (fieldDesc k).mask with
  | none => v
  | some m => ((v.toNat &&& m : Nat) : Int)

/-- R86, R88, R160: the 15 bytes of the payload, the seven encodings in order. -/
def payloadOf (v : Fin 7 → Int) : Payload :=
  le 2 (fieldBits 0 (v 0)) ++ le 2 (fieldBits 1 (v 1)) ++ le 2 (fieldBits 2 (v 2)) ++ le 2 (fieldBits 3 (v 3))
    ++ le 3 (fieldBits 4 (v 4)) ++ le 2 (fieldBits 5 (v 5)) ++ le 2 (fieldBits 6 (v 6))

/-! ## The 24-bit helper and the inverse of each field (R93) -/

/-- R93 `pack_s24(v)`. -/
def packS24 (v : Int) : Vector Byte 3 := le 3 v

/-- R93 `unpack_s24(B)`. -/
def unpackS24 (b : Vector Byte 3) : Int := sintOf 24 (uintLE b.toList)

/-- R93: the field value `f_k` read back from a payload. -/
def unpackField (p : Payload) : Fin 7 → Int
  | 0 => uintLE [p[0], p[1]]
  | 1 => sintOf 16 (uintLE [p[2], p[3]])
  | 2 => uintLE [p[4], p[5]]
  | 3 => sintOf 16 (uintLE [p[6], p[7]])
  | 4 => unpackS24 #v[p[8], p[9], p[10]]
  | 5 => sintOf 16 (uintLE [p[11], p[12]])
  | 6 => ((uintLE [p[13], p[14]] &&& Config.socMask : Nat) : Int)

/-! ## The bytes of a multi-byte register (R61, R62) -/

/-- R61: byte `i` of a register, `r[8i+7:8i]`. -/
def byteOf {w : Nat} (r : BitVec w) (i : Nat) : Byte := r.extractLsb' (8 * i) 8

/-- R62: the register with exactly byte `i` replaced. -/
def setByteOf {w : Nat} (r : BitVec w) (i : Nat) (v : Byte) : BitVec w :=
  (r &&& ~~~((0xFF#8).zeroExtend w <<< (8 * i))) ||| (v.zeroExtend w <<< (8 * i))

/-! ## Nonce and record (R91, R92) -/

/-- R91 `build_nonce(m, t, i)`; the bytes as R131 lists them. -/
def buildNonce (m : BitVec 16) (t : Byte) (i : BitVec 16) : Block :=
  #v[byteOf m 0, byteOf m 1, t, byteOf i 0, byteOf i 1, 0, 0, 0, 0, 0, 0, 0, 0, 0, 0, 0]

/-- R92 `record(T, N, C)`: the type byte, the first five bytes of the nonce, the ciphertext. -/
def record (t : Byte) (n : Block) (c : Payload) : Record :=
  #v[t] ++ #v[n[0], n[1], n[2], n[3], n[4]] ++ c

/-! ## Counter mode (R141 to R143) -/

/-- R10 `^`, R141: the XOR datapath. Keystream byte `i` meets payload byte `i`; `KS[15]` is discarded. -/
def xorPayload (p : Payload) (ks : Block) : Payload := Vector.ofFn fun i => p[i] ^^^ ks[i.val]

/-- R142: counter mode from byte `i` of the counter block `c` on. -/
def ctrXorFrom (enc : Block → Block → Block) (inc : Block → Block) (k : Block) : Block → Fin 16 → List Byte → List Byte
  | _, _, [] => []
  | c, i, p :: ps => (p ^^^ (enc k c)[i]) :: ctrXorFrom enc inc k (if i = 15 then inc c else c) (i + 1) ps

/-- R142 `ctr_xor(K, N0, P)`, with the block cipher and the increment as parameters. -/
def ctrXor (enc : Block → Block → Block) (inc : Block → Block) (k n0 : Block) (p : List Byte) : List Byte :=
  ctrXorFrom enc inc k n0 0 p

/-- R143 `be_value(C)`: the 16 bytes as one big-endian number. -/
def beValue (c : Block) : Nat := c.toList.foldl (fun a b => 256 * a + b.toNat) 0

/-- R143 `be_16(n)`: the inverse of `be_value`. -/
def be16 (n : Nat) : Block := Vector.ofFn fun i => BitVec.ofNat 8 (n / 256 ^ (15 - i.val))

/-- R143 `CTR_INC`: plus one, big-endian, modulo `2 ^ 128`. Assumption log 6. -/
def ctrInc (c : Block) : Block := be16 ((beValue c + 1) % 2 ^ 128)

end Sys2Proof.Machine
end

