-- ==== Sys2Proof/Machine/Flags.lean ====
section
/-!
DEFINITION. Every flag computation: `KEYOK` (10_state.md R34), the `STATUS` byte (R30), the `ERR` byte (R31, R196), the
`RFIELD` byte (R32), and the verdicts of the Field Packer (40_field_packer.md R114, R115).
-/

namespace Sys2Proof.Machine

/-- A flag at bit `i` of a byte. -/
def flagBit (b : Bool) (i : Nat) : Byte := if b then 1#8 <<< i else 0

/-- R34: `KEYOK` is the predicate `KEYCNT = 16`. -/
def keyOk (s : State) : Bool := s.keyCnt == 16

/-- R30: bit 0 `KEYOK`, bit 1 `PVALID`, bit 2 `NVALID`, bit 3 `OVALID`, the rest 0. -/
def statusByte (s : State) : Byte :=
  flagBit (keyOk s) 0 ||| flagBit s.pvalid 1 ||| flagBit s.nvalid 2 ||| flagBit s.ovalid 3

/-- R31, R196: the `ERR` byte, each bit computed independently: `E_RANGE`, `E_KEY`, `W_SOC`, `E_SEQ`, `E_CMD`. -/
def errByte (eRange eKey wSoc eSeq eCmd : Bool) : Byte :=
  flagBit eRange 0 ||| flagBit eKey 1 ||| flagBit wSoc 2 ||| flagBit eSeq 3 ||| flagBit eCmd 4

/-- R31, R196: a command is fatal when any of bits 0, 1, 3 or 4 of its `ERR` is set; bit 2 is a warning. -/
def isFatal (e : Byte) : Bool := e &&& 0x1B != 0

/-- R115: `fail` is not empty. -/
def anyFail (v : Fin 7 → Int) : Bool :=
  !(laneFits 0 (v 0) && laneFits 1 (v 1) && laneFits 2 (v 2) && laneFits 3 (v 3) && laneFits 4 (v 4)
    && laneFits 5 (v 5) && laneFits 6 (v 6))

/-- R32, R115: the sum over the failing fields `k` of `2 ^ k`. -/
def rangeMask (v : Fin 7 → Int) : Byte :=
  flagBit (!laneFits 0 (v 0)) 0 ||| flagBit (!laneFits 1 (v 1)) 1 ||| flagBit (!laneFits 2 (v 2)) 2
    ||| flagBit (!laneFits 3 (v 3)) 3 ||| flagBit (!laneFits 4 (v 4)) 4 ||| flagBit (!laneFits 5 (v 5)) 5
    ||| flagBit (!laneFits 6 (v 6)) 6

/-- R114: lane 6 passes its range check and its value exceeds `SOC_MASK`. -/
def socWarn (v : Fin 7 → Int) : Bool := laneFits 6 (v 6) && decide ((Config.socMask : Int) < v 6)

end Sys2Proof.Machine
end

