-- ==== Sys2Proof/Machine/Ops.lean ====
section
/-!
DEFINITION. The named operations over the registers: reporting (10_state.md R31, R32), raising an error (60_exceptions.md
R197), the key port (10_state.md R35), the stores of the three stages, the address map and the one read of a byte
(44_host_access_and_system.md R170), and the one write of a byte (R171 to R173).
-/

namespace Sys2Proof.Machine

/-- R31, R32: a command other than `NOP` overwrites all of `ERR` and all of `RFIELD`. -/
def report (e rf : Byte) (s : State) : State := { s with err := e, rfield := rf }

/-- The three validity flags take the given values (R27 to R29). -/
def setFlags (p n o : Bool) (s : State) : State := { s with pvalid := p, nvalid := n, ovalid := o }

/-- R197, R13 `raise`: what an error does to the state, for every command: it writes `ERR` and `RFIELD`, clears the
validity flags its own rule names (`clearP`, `clearN`, `clearO`), and skips every result write. Nothing is saved and control
goes nowhere. There is no return beside it: R198, there is nothing to restore. -/
def raiseError (e rf : Byte) (clearP clearN clearO : Bool) (s : State) : State :=
  setFlags (s.pvalid && !clearP) (s.nvalid && !clearN) (s.ovalid && !clearO) (report e rf s)

/-- R115, R160: the payload buffer is written as a whole. -/
def storePayload (p : Payload) (s : State) : State := { s with pbuf := p }

/-- R131, R160: the nonce is written as a whole. -/
def storeNonce (n : Block) (s : State) : State := { s with nonce := n }

/-- R141: the counter register takes the nonce, the block cipher runs once in the forward direction, and the XOR datapath
writes `OBUF`. `enc` is `BLOCK_ENC`. -/
def runCipher (enc : Block → Block → Block) (s : State) : State :=
  { s with ctr := s.nonce, ks := enc s.key s.nonce, obuf := xorPayload s.pbuf (enc s.key s.nonce) }

/-- R35, R172: a byte pushed at `KEYIN`. -/
def pushKey (v : Byte) (s : State) : State :=
  if h : s.keyCnt.toNat < 16 then { s with key := s.key.set s.keyCnt.toNat v, keyCnt := s.keyCnt + 1 }
  else { s with keyCnt := 17 }

/-- R21, R65: what stands at each address of the window. -/
def locate (a : Addr) : Loc :=
  let n := a.toNat
  if n = 0x00 then .cmd
  else if n = 0x01 then .status
  else if n = 0x02 then .err
  else if n = 0x03 then .rfield
  else if n = 0x04 then .keyin
  else if n = 0x05 then .keycnt
  else if n = 0x06 then .rectype
  else if h : 0x08 ≤ n ∧ n ≤ 0x09 then .modelid ⟨n - 0x08, by omega⟩
  else if n = 0x0A then .readout
  else if h : 0x0C ≤ n ∧ n ≤ 0x0D then .iv ⟨n - 0x0C, by omega⟩
  else if h : 0x10 ≤ n ∧ n ≤ 0x11 then .ttg ⟨n - 0x10, by omega⟩
  else if h : 0x14 ≤ n ∧ n ≤ 0x17 then .volt ⟨n - 0x14, by omega⟩
  else if h : 0x18 ≤ n ∧ n ≤ 0x19 then .alarm ⟨n - 0x18, by omega⟩
  else if h : 0x1C ≤ n ∧ n ≤ 0x1F then .aux ⟨n - 0x1C, by omega⟩
  else if h : 0x20 ≤ n ∧ n ≤ 0x23 then .curr ⟨n - 0x20, by omega⟩
  else if h : 0x24 ≤ n ∧ n ≤ 0x27 then .cons ⟨n - 0x24, by omega⟩
  else if h : 0x28 ≤ n ∧ n ≤ 0x2B then .soc ⟨n - 0x28, by omega⟩
  else if h : 0x30 ≤ n ∧ n ≤ 0x3E then .pbuf ⟨n - 0x30, by omega⟩
  else if h : 0x40 ≤ n ∧ n ≤ 0x4F then .nonce ⟨n - 0x40, by omega⟩
  else if h : 0x50 ≤ n ∧ n ≤ 0x64 then .out ⟨n - 0x50, by omega⟩
  else .reserved

/-- R40, R170: byte `i` of the record window, read from the registers as they stand, whatever `OVALID` says. -/
def outByte (s : State) (i : Fin 21) : Byte := (record Config.recordType s.nonce s.obuf)[i]

/-- R170: the byte a read of a location returns. A write-only or reserved location reads 0 (R65). -/
def readLoc (s : State) : Loc → Byte
  | .cmd => 0
  | .status => statusByte s
  | .err => s.err
  | .rfield => s.rfield
  | .keyin => 0
  | .keycnt => s.keyCnt.zeroExtend 8
  | .rectype => Config.recordType
  | .modelid i => byteOf s.modelId i
  | .readout => s.readout
  | .iv i => byteOf s.iv i
  | .ttg i => byteOf s.rTtg i
  | .volt i => byteOf s.rVolt i
  | .alarm i => byteOf s.rAlarm i
  | .aux i => byteOf s.rAux i
  | .curr i => byteOf s.rCurr i
  | .cons i => byteOf s.rCons i
  | .soc i => byteOf s.rSoc i
  | .pbuf i => s.pbuf[i]
  | .nonce i => s.nonce[i]
  | .out i => outByte s i
  | .reserved => 0

/-- R170 `MemRead(a, 1)`: the one read of a byte of the window. It changes nothing (R64). -/
def readWindow (s : State) (a : Addr) : Byte := readLoc s (locate a)

/-- R171 to R173, R65: what a host write does to the block, `CMD` apart (a write to `CMD` executes a command and stores
nothing, R33). A write to a read-only or reserved location is ignored. -/
def writeLoc (v : Byte) (s : State) : Loc → State
  | .cmd => s
  | .status => s
  | .err => s
  | .rfield => s
  | .keyin => pushKey v s
  | .keycnt => s
  | .rectype => s
  | .modelid i => { s with modelId := setByteOf s.modelId i v }
  | .readout => { s with readout := v }
  | .iv i => { s with iv := setByteOf s.iv i v }
  | .ttg i => { s with rTtg := setByteOf s.rTtg i v }
  | .volt i => { s with rVolt := setByteOf s.rVolt i v }
  | .alarm i => { s with rAlarm := setByteOf s.rAlarm i v }
  | .aux i => { s with rAux := setByteOf s.rAux i v }
  | .curr i => { s with rCurr := setByteOf s.rCurr i v }
  | .cons i => { s with rCons := setByteOf s.rCons i v }
  | .soc i => { s with rSoc := setByteOf s.rSoc i v }
  | .pbuf i => { s with pbuf := s.pbuf.set i v, pvalid := true, ovalid := false }
  | .nonce _ => s
  | .out _ => s
  | .reserved => s

/-- `MemWrite(a, 1, v)` to an address other than `CMD`: the one write of a byte of the window. -/
def writeWindow (a : Addr) (v : Byte) (s : State) : State := writeLoc v s (locate a)

/-- The port has delivered the oldest event: `rest` is still to come, and the port answers `answer` (R20). -/
def deliver (rest : List HostEvent) (answer : Option Byte) (s : State) : State :=
  { s with pending := rest, readData := answer }

/-- R220: hardware reset puts every stored location at its value of R45. The host's later accesses are still to come
(assumption log 8). -/
def hardwareReset (rest : List HostEvent) : State := deliver rest none State.reset

end Sys2Proof.Machine
end

