-- ==== Sys2Proof/Machine/CipherStage.lean ====
section
/-!
DEFINITION. The Cipher Stage family: `CRYPT`, encryption and decryption alike (42_cipher_stage.md R140 to R146).
-/

namespace Sys2Proof.Machine

/-- R145: the state after `CRYPT`, for a block cipher `enc`. -/
def cryptState (enc : Block → Block → Block) (s : State) : State :=
  let e := errByte false (!keyOk s) false (!(s.pvalid && s.nvalid)) false
  if isFatal e then raiseError e 0x00 false false true s
  else setFlags s.pvalid false true (runCipher enc (report e 0x00 s))

/-- R145 `CRYPT`, with `BLOCK_ENC` the open parameter. -/
def execCrypt (s : State) : Host.Outcome State Fault Refusal := .next (cryptState Config.blockEnc s)

end Sys2Proof.Machine
end

