-- ==== Sys2Proof/Machine/FieldPacker.lean ====
section
/-!
DEFINITION. The Field Packer family: `PACK` (40_field_packer.md R110 to R115).
-/

namespace Sys2Proof.Machine

/-- R115: the state after `PACK`. -/
def packState (s : State) : State :=
  let v := fieldValues s
  let e := errByte (anyFail v) false (socWarn v) false false
  if anyFail v then raiseError e (rangeMask v) true false true s
  else setFlags true s.nvalid false (storePayload (payloadOf v) (report e (rangeMask v) s))

/-- R115 `PACK`. -/
def execPack (s : State) : Host.Outcome State Fault Refusal := .next (packState s)

end Sys2Proof.Machine
end

