-- ==== Sys2Proof/Machine/NonceBuilder.lean ====
section
/-!
DEFINITION. The Nonce Builder family: `NONCE` (41_nonce_builder.md R130 to R133).
-/

namespace Sys2Proof.Machine

/-- R131: the state after `NONCE`. It cannot fail. -/
def nonceState (s : State) : State :=
  setFlags s.pvalid true false (storeNonce (buildNonce s.modelId s.readout s.iv) (report 0x00 0x00 s))

/-- R131 `NONCE`. -/
def execNonce (s : State) : Host.Outcome State Fault Refusal := .next (nonceState s)

end Sys2Proof.Machine
end

