-- ==== Sys2Proof/Machine/SystemCommands.lean ====
section
/-!
DEFINITION. The system commands: `NOP`, `KEYCLR`, `SRST`, and the Illegal command (44_host_access_and_system.md R174 to
R177).
-/

namespace Sys2Proof.Machine

/-- R174 `NOP`: nothing, `ERR` and `RFIELD` keep the report of the previous command. -/
def execNop (s : State) : Host.Outcome State Fault Refusal := .next s

/-- R175: the state after `KEYCLR`. -/
def keyclrState (s : State) : State := report 0x00 0x00 { s with key := Vector.replicate 16 0, keyCnt := 0 }

/-- R175 `KEYCLR`. -/
def execKeyclr (s : State) : Host.Outcome State Fault Refusal := .next (keyclrState s)

/-- R176: the state after `SRST`: every stored location of R21 takes its value of R45, but `KEY` and `KEYCNT`. The hidden
`CTR` and `KS` are no location of R21 and are kept (assumption log 1); the host port is not part of the block. -/
def srstState (s : State) : State :=
  { State.reset with
    key := s.key, keyCnt := s.keyCnt, ctr := s.ctr, ks := s.ks, pending := s.pending, readData := s.readData }

/-- R176 `SRST`. -/
def execSrst (s : State) : Host.Outcome State Fault Refusal := .next (srstState s)

/-- R177: the Illegal command, a write to `CMD` of a byte in 0x07 to 0xFF: `ERR` takes 0x10, `RFIELD` 0x00, nothing else
changes. -/
def illegalCommand (s : State) : Host.Outcome State Fault Refusal :=
  .next (raiseError (errByte false false false false true) 0x00 false false false s)

end Sys2Proof.Machine
end

