-- ==== Sys2Proof/Machine/WholePacket.lean ====
section
/-!
DEFINITION. The whole-packet family: `ENCODE` (43_encode_and_assembler.md R160). The Packet Assembler (R163) is the window
`OUT`, `outByte` of Machine/Ops.lean; it has no command.
-/

namespace Sys2Proof.Machine

/-- R160: the state after `ENCODE`, for a block cipher `enc`: the three stages in order on the registers of the moment, all
three results or none. -/
def encodeState (enc : Block → Block → Block) (s : State) : State :=
  let v := fieldValues s
  let e := errByte (anyFail v) (!keyOk s) (socWarn v) false false
  if isFatal e then raiseError e (rangeMask v) true true true s
  else
    setFlags true false true
      (runCipher enc
        (storeNonce (buildNonce s.modelId s.readout s.iv) (storePayload (payloadOf v) (report e (rangeMask v) s))))

/-- R160 `ENCODE`, with `BLOCK_ENC` the open parameter. -/
def execEncode (s : State) : Host.Outcome State Fault Refusal := .next (encodeState Config.blockEnc s)

end Sys2Proof.Machine
end

