-- ==== Sys2Proof/Machine/Dispatch.lean ====
section
/-!
DEFINITION. One arm per command of spec/opcode_table.json.
-/

namespace Sys2Proof.Machine

def exec (i : Instr) (s : State) : Host.Outcome State Fault Refusal :=
  match i with
  | .nop => Sys2Proof.Machine.execNop s
  | .pack => Sys2Proof.Machine.execPack s
  | .nonce => Sys2Proof.Machine.execNonce s
  | .crypt => Sys2Proof.Machine.execCrypt s
  | .encode => Sys2Proof.Machine.execEncode s
  | .keyclr => Sys2Proof.Machine.execKeyclr s
  | .srst => Sys2Proof.Machine.execSrst s

end Sys2Proof.Machine
end

