-- ==== Sys2Proof/Machine/HostPort.lean ====
section
/-!
DEFINITION. The host port: the delivery of the oldest event (20_memory.md R68), which is where a command byte is fetched:
it is the data byte of a write to `CMD` (10_state.md R25, R33).
-/

namespace Sys2Proof.Machine

/-- What the delivery of one event comes to. -/
inductive Fetched where
  /-- The step is complete: a read, a write that is no command, a reset, or no event at all. -/
  | done (s : State)
  /-- The byte `c` was written to `CMD` and is to be executed in state `s`. -/
  | command (c : Byte) (s : State)
  deriving DecidableEq, Repr

/-- R20, R33, R170 to R173, R220: the oldest event at the port. With none pending the block is idle and holds its state
(R207). -/
def fetch (s : State) : Fetched :=
  match s.pending with
  | [] => .done s
  | .reset :: rest => .done (hardwareReset rest)
  | .read a :: rest => .done (deliver rest (some (readWindow s a)) s)
  | .write a v :: rest =>
    if locate a = .cmd then .command v (deliver rest none s) else .done (writeWindow a v (deliver rest none s))

/-- The port with the command `c` as the host's next access, before everything still pending. -/
def placeCommand (c : Byte) (s : State) : State := { s with pending := .write 0x00 c :: s.pending }

end Sys2Proof.Machine
end

