-- ==== Sys2Proof/Machine/Step.lean ====
section
/-!
DEFINITION. One step of TTS-CORE is one event at the host port (10_state.md R20); a write to `CMD` decodes its byte and
executes the whole command inside the step (R33, R64).
-/

namespace Sys2Proof.Machine

/-- R20: one step, total on every state. -/
def step (s : State) : Host.Outcome State Fault Refusal :=
  match fetch s with
  | .done t => .next t
  | .command c t =>
    match decode c with
    | .ok i => exec i t
    | .error _ => illegalCommand t

/-- The state with the table word `w` as the host's next access, a write of that byte to `CMD`. Assumption log 2. -/
def State.withFetchWord (s : State) (nbits w : Nat) : State := placeCommand (tableByte nbits w) s

end Sys2Proof.Machine
end

