-- ==== Sys2Proof/WellFormed.lean ====
section
/-!
DEFINITION. What makes a line of the host-transaction notation legal (30_encoding.md R97). A command (`Instr`) has no
operand, so every command is well formed and needs no check (R80); a host event is well formed by its types (R60: a
7-bit address, one byte of data).
-/

namespace Sys2Proof

/-- R21: the lowest address of a named register. -/
def RegName.base : RegName → Nat
  | .CMD => 0x00
  | .STATUS => 0x01
  | .ERR => 0x02
  | .RFIELD => 0x03
  | .KEYIN => 0x04
  | .KEYCNT => 0x05
  | .RECTYPE => 0x06
  | .MODELID => 0x08
  | .READOUT => 0x0A
  | .IV => 0x0C
  | .R_TTG => 0x10
  | .R_VOLT => 0x14
  | .R_ALARM => 0x18
  | .R_AUX => 0x1C
  | .R_CURR => 0x20
  | .R_CONS => 0x24
  | .R_SOC => 0x28
  | .PBUF => 0x30
  | .NONCE => 0x40
  | .OUT => 0x50

/-- R97: the address a line's target stands for. DESIGN CHOICE (log 10): the offset is not held to the named register's own
bytes, so `MODELID+5` is the address 0x0D; R97 is silent. -/
def Target.addr : Target → Nat
  | .num a => a
  | .reg r offset => r.base + offset

/-- R97: `n` is the decimal times 65536, and must be an integer for a `WQ` line to be legal. DESIGN CHOICE (log 9): nothing
else is asked, so a decimal outside the range of Q16.16 passes, which R97's "not exact in Q16.16" could also refuse. -/
def Decimal.exact (d : Decimal) : Bool := (d.mantissa * 2 ^ Config.inFrac) % 10 ^ d.places = 0

/-- R97: `n`, the decimal times 65536 (an integer when `exact`); outside the range of Q16.16 too (log 9). -/
def Decimal.scaled (d : Decimal) : Int := d.mantissa * 2 ^ Config.inFrac / 10 ^ d.places

/-- Whether a line is legal. R97 states that an address lies in the window, that `W` writes one byte, that a `WQ` decimal
times 65536 is an integer, and that a `WBUF` gives all 15 bytes. DESIGN CHOICE, on four points R97 leaves open: a `WQ`
decimal outside the range of Q16.16 is accepted (log 9); a line may run past the register it names, and `W16`, `W32`, `WQ`
and `RBUF` take a plain address too, within the window (log 10); a `W16` or `W32` value wider than 16 or 32 bits is refused
(log 11); an `RBUF` of no bytes is accepted (log 12). -/
def HostLine.wellFormed : HostLine → Bool
  | .w a v => a.addr < Config.windowLen && v < 2 ^ 8
  | .r a _ => a.addr < Config.windowLen
  | .cmd _ => true
  | .w16 a v => a.addr + 1 < Config.windowLen && v < 2 ^ 16
  | .w32 a v => a.addr + 3 < Config.windowLen && v < 2 ^ 32
  | .wq a d => a.addr + 3 < Config.windowLen && d.exact
  | .key _ => true
  | .wbuf bs => bs.length = Config.payloadLen
  | .rbuf a n => a.addr < Config.windowLen && a.addr + n ≤ Config.windowLen

end Sys2Proof
end

