-- ==== Sys2Proof/Machine/HostLines.lean ====
section
/-!
DEFINITION. The host-transaction notation of 30_encoding.md R97: each line's expansion into host events. The encoding of a
line is the triple (kind, address, data byte), which is a `HostEvent`.
-/

namespace Sys2Proof.Machine

/-- R97 `W a, v`. -/
def writeEvent (a v : Nat) : HostEvent := .write (BitVec.ofNat 7 a) (BitVec.ofNat 8 v)

/-- R97: the `n` bytes of `v`, low byte first, at addresses from `a` on. -/
def writeBytes (a v : Nat) : Nat → List HostEvent
  | 0 => []
  | n + 1 => writeEvent a v :: writeBytes (a + 1) (v / 256) n

/-- R97: the expansion of a line, legal or not. `W16` and `W32` write the byte slices of R97, so bits of `v` above them do
not matter here (`HostLine.wellFormed` refuses such a line, log 11). DESIGN CHOICE (log 9): a `WQ` decimal outside the range
of Q16.16 is written modulo 2^32; (log 12) an `RBUF` of no bytes makes no access. -/
def expandLine : HostLine → List HostEvent
  | .w a v => [writeEvent a.addr v]
  | .r a _ => [.read (BitVec.ofNat 7 a.addr)]
  | .cmd i => [.write 0x00 (encode i)]
  | .w16 a v => writeBytes a.addr v 2
  | .w32 a v => writeBytes a.addr v 4
  | .wq a d => writeBytes a.addr (d.scaled % 2 ^ 32).toNat 4
  | .key h => .write 0x00 (encode .keyclr) :: h.map (fun b => .write 0x04 b)
  | .wbuf bs => bs.zipIdx.map (fun x => .write (BitVec.ofNat 7 (0x30 + x.2)) x.1)
  | .rbuf a n => (List.range n).map (fun i => .read (BitVec.ofNat 7 (a.addr + i)))

end Sys2Proof.Machine
end

