-- ==== Sys2Proof/Safety.lean ====
section
/-!
DEFINITION. What counts as a safe state and a usable record, and the terms the claims use: what the host delivers next, which
addresses are of which kind, what two states agree on, and the invariants that the prose of spec/10_state.md gives the machine.
-/

namespace Sys2Proof.Safety

open Sys2Proof.Machine

/-! ## What the next step delivers -/

/-- The event the next step delivers at the port. -/
abbrev Delivers (s : State) (e : HostEvent) : Prop := s.pending.head? = some e

/-- The next step is a host write of the command code `c` to `CMD` (R33). -/
abbrev Runs (s : State) (c : Byte) : Prop := Delivers s (.write 0x00 c)

/-- The window address `base + i`. -/
abbrev addr (base i : Nat) : Addr := BitVec.ofNat 7 (base + i)

/-- The next step is a host write to a byte of `PBUF` (R173). -/
abbrev WritesPbuf (s : State) : Prop := ∃ (i : Fin 15) (v : Byte), Delivers s (.write (addr 0x30 i) v)

/-- What `n` steps from `s` come to (R235: a run is a finite sequence of accesses). -/
def after (n : Nat) (s : State) : Host.Outcome State Fault Refusal := Host.Core.run core n s

/-! ## Kinds of address (R65, R171) -/

/-- R65: the reserved addresses. -/
abbrev isReserved (a : Addr) : Prop :=
  a.toNat = 0x07 ∨ a.toNat = 0x0B ∨ a.toNat = 0x0E ∨ a.toNat = 0x0F ∨ a.toNat = 0x12 ∨ a.toNat = 0x13
    ∨ a.toNat = 0x1A ∨ a.toNat = 0x1B ∨ (0x2C ≤ a.toNat ∧ a.toNat ≤ 0x2F) ∨ a.toNat = 0x3F ∨ 0x65 ≤ a.toNat

/-- R65: the read-only locations. -/
abbrev isReadOnly (a : Addr) : Prop :=
  a.toNat = 0x01 ∨ a.toNat = 0x02 ∨ a.toNat = 0x03 ∨ a.toNat = 0x05 ∨ a.toNat = 0x06
    ∨ (0x40 ≤ a.toNat ∧ a.toNat ≤ 0x4F) ∨ (0x50 ≤ a.toNat ∧ a.toNat ≤ 0x64)

/-- R171: the bytes of the header and reading registers. -/
abbrev isPlainRegister (a : Addr) : Prop :=
  a.toNat = 0x08 ∨ a.toNat = 0x09 ∨ a.toNat = 0x0A ∨ a.toNat = 0x0C ∨ a.toNat = 0x0D ∨ a.toNat = 0x10 ∨ a.toNat = 0x11
    ∨ (0x14 ≤ a.toNat ∧ a.toNat ≤ 0x17) ∨ a.toNat = 0x18 ∨ a.toNat = 0x19 ∨ (0x1C ≤ a.toNat ∧ a.toNat ≤ 0x2B)

/-! ## What two states agree on (R44, R46) -/

/-- The seven reading registers agree. -/
abbrev SameReadings (s t : State) : Prop :=
  s.rTtg = t.rTtg ∧ s.rVolt = t.rVolt ∧ s.rAlarm = t.rAlarm ∧ s.rAux = t.rAux ∧ s.rCurr = t.rCurr ∧ s.rCons = t.rCons
    ∧ s.rSoc = t.rSoc

/-- The three header registers agree. -/
abbrev SameHeader (s t : State) : Prop := s.modelId = t.modelId ∧ s.readout = t.readout ∧ s.iv = t.iv

/-- The key and its count agree. -/
abbrev SameKey (s t : State) : Prop := s.key = t.key ∧ s.keyCnt = t.keyCnt

/-! ## Usable results (R199) -/

/-- R199: the premises of a claim that a record is correct: no fatal bit in `ERR`, and `OVALID`. -/
abbrev RecordReady (s : State) : Prop := s.err &&& 0x1B = 0 ∧ s.ovalid = true

/-! ## Invariants -/

/-- What holds of every state the machine reaches: `KEYCNT` is at most 17 (R35), the nonce's tail is zero (R38), the
reserved bits of `ERR` are 0 (R31), bits 0, 2 and 7 of `RFIELD` are 0 and it is non-zero exactly when `E_RANGE` is set (R32),
and a valid record has a valid payload and no armed nonce (R27 to R29, taken together). -/
abbrev Inv (s : State) : Prop :=
  s.keyCnt.toNat ≤ 17
  ∧ (∀ i : Fin 16, 5 ≤ i.val → s.nonce[i] = 0)
  ∧ s.err &&& 0xE0 = 0
  ∧ s.rfield &&& 0x85 = 0
  ∧ (s.rfield ≠ 0 ↔ s.err &&& 0x01 ≠ 0)
  ∧ (s.ovalid = true → s.pvalid = true ∧ s.nvalid = false)

/-- R29: while `OVALID` is 1, `OBUF` is the payload that stands in `PBUF`, encrypted under some key with the nonce that stands
in `NONCE`, whose first five bytes are the record's header. (The key may have been cleared since, R175.) -/
def RecordInv (s : State) : Prop :=
  s.ovalid = true → ∃ k : Block, s.obuf = xorPayload s.pbuf (Config.blockEnc k s.nonce)

end Sys2Proof.Safety
end

