-- ==== Sys2Proof/Certificates/Slice0/Obligations.lean ====
section
/-!
DEFINITION. The statements for the provers, from the numbered rules of spec/. Each docstring names the rule it formalises.
-/

open Sys2Proof Sys2Proof.Machine Sys2Proof.Safety

/-! ## Commands: encoding and step -/

/-- R81 (the decoding, without the effect of the Illegal command): a byte decodes to the command whose code it is, and to
the Illegal command exactly from 0x07 on. -/
def Obligations.DecodeAcceptsExactlyTheCodes : Prop :=
  ∀ c : Byte, (∀ i : Instr, decode c = .ok i ↔ encode i = c)
    ∧ (decode c = .error (.illegalCommand c) ↔ 0x07 ≤ c.toNat)

/-- R80: the table of codes, one word of each row. -/
def Obligations.CommandBytesDecode : Prop :=
  decode 0b00000000 = .ok .nop ∧ decode 0b00000001 = .ok .pack ∧ decode 0b00000010 = .ok .nonce
    ∧ decode 0b00000011 = .ok .crypt ∧ decode 0b00000100 = .ok .encode ∧ decode 0b00000101 = .ok .keyclr
    ∧ decode 0b00000110 = .ok .srst ∧ decode 0b00000111 = .error (.illegalCommand 0b00000111)

/-- R33: a host write of the byte `c` to `CMD` executes the command whose code is `c` inside the same step and stores
nothing; a read of `CMD` gives 0 and has no effect. The port's own fields: the event is gone and, for a write, no read value
stands (assumption log 2). -/
def Obligations.CommandWriteExecutes : Prop :=
  ∀ (s : State) (rest : List HostEvent),
    (∀ (c : Byte) (i : Instr), s.pending = .write 0x00 c :: rest → decode c = .ok i →
      step s = exec i { s with pending := rest, readData := none })
    ∧ (s.pending = .read 0x00 :: rest → step s = .next { s with pending := rest, readData := some 0x00 })

/-- R177: the Illegal command writes `ERR` and `RFIELD` and changes nothing else. -/
def Obligations.IllegalCommandReports : Prop :=
  ∀ (s : State) (c : Byte) (rest : List HostEvent), s.pending = .write 0x00 c :: rest → 0x07 ≤ c.toNat →
    step s = .next { s with pending := rest, readData := none, err := 0x10, rfield := 0x00 }

/-- R20 ("total on every access"): every step of every state has a next state. -/
def Obligations.EveryStepHasANextState : Prop :=
  ∀ s : State, ∃ t : State, step s = .next t

/-- The model's choice, assumption log 2: with no event pending the step changes nothing (R207 says that the block holds its
state between host accesses). -/
def Obligations.IdleHoldsTheState : Prop :=
  ∀ s : State, s.pending = [] → step s = .next s

/-! ## Commands: the whole next state of each -/

/-- R174: `NOP` changes nothing, and it is the only command that does not overwrite `ERR` and `RFIELD`. -/
def Obligations.NopResult : Prop :=
  (∀ s : State, exec .nop s = .next s)
  ∧ ∀ (i : Instr) (s : State) (e rf : Byte), i ≠ .nop → exec i { s with err := e, rfield := rf } = exec i s

/-- R115, the pseudocode of `PACK`: every register not named keeps its value. -/
def Obligations.PackResult : Prop :=
  ∀ s : State,
    let v1 := rne (s.rVolt.toInt * 100) 16
    let v3 := rne (s.rAux.toInt * 100) 16
    let v4 := rne (s.rCurr.toInt * 1000) 16
    let v5 := rne (s.rCons.toInt * 10) 16
    let v6 := rne (s.rSoc.toInt * 10) 16
    let pass := fitsS v1 16 && fitsS v3 16 && fitsS v4 24 && fitsS v5 16 && fitsU v6 16
    let warn := fitsU v6 16 && decide (0x3FFF < v6)
    let rf : Byte := (if fitsS v1 16 then 0 else 2) + (if fitsS v3 16 then 0 else 8) + (if fitsS v4 24 then 0 else 16)
      + (if fitsS v5 16 then 0 else 32) + (if fitsU v6 16 then 0 else 64)
    let e : Byte := (if pass then 0x00 else 0x01) ||| (if warn then 0x04 else 0x00)
    exec .pack s = .next
      (if pass then
        { s with
          rfield := rf, err := e, ovalid := false, pvalid := true
          pbuf := le 2 s.rTtg.toNat ++ le 2 v1 ++ le 2 s.rAlarm.toNat ++ le 2 v3 ++ le 3 v4 ++ le 2 v5
            ++ le 2 ((v6.toNat &&& 0x3FFF : Nat) : Int) }
      else { s with rfield := rf, err := e, ovalid := false, pvalid := false })

/-- R131: the pseudocode of `NONCE`; and the corner case that `NONCE` keeps its bytes until the next `NONCE` or `ENCODE`
(or a reset), whatever the host writes. -/
def Obligations.NonceResult : Prop :=
  (∀ s : State, exec .nonce s = .next
    { s with
      nonce := #v[s.modelId.extractLsb' 0 8, s.modelId.extractLsb' 8 8, s.readout, s.iv.extractLsb' 0 8,
        s.iv.extractLsb' 8 8, 0, 0, 0, 0, 0, 0, 0, 0, 0, 0, 0]
      nvalid := true, ovalid := false, err := 0x00, rfield := 0x00 })
  ∧ ∀ s t : State, step s = .next t → t.nonce ≠ s.nonce →
    Runs s 0x02 ∨ Runs s 0x04 ∨ Runs s 0x06 ∨ Delivers s .reset

/-- R145, the pseudocode of `CRYPT`; `CTR` and `KS` as its lines write them. -/
def Obligations.CryptResult : Prop :=
  ∀ s : State,
    let e : Byte := (if s.keyCnt.toNat = 16 then 0x00 else 0x02)
      ||| (if s.pvalid = false ∨ s.nvalid = false then 0x08 else 0x00)
    exec .crypt s = .next
      (if e = 0x00 then
        { s with
          err := e, rfield := 0x00, ctr := s.nonce, ks := Config.blockEnc s.key s.nonce
          obuf := Vector.ofFn fun i => s.pbuf[i] ^^^ (Config.blockEnc s.key s.nonce)[i.val]
          nvalid := false, ovalid := true }
      else { s with err := e, rfield := 0x00, ovalid := false })

/-- R160, the pseudocode of `ENCODE`. The hidden `CTR` and `KS` may hold anything after a success (R42). -/
def Obligations.EncodeResult : Prop :=
  ∀ s : State,
    let v1 := rne (s.rVolt.toInt * 100) 16
    let v3 := rne (s.rAux.toInt * 100) 16
    let v4 := rne (s.rCurr.toInt * 1000) 16
    let v5 := rne (s.rCons.toInt * 10) 16
    let v6 := rne (s.rSoc.toInt * 10) 16
    let pass := fitsS v1 16 && fitsS v3 16 && fitsS v4 24 && fitsS v5 16 && fitsU v6 16
    let warn := fitsU v6 16 && decide (0x3FFF < v6)
    let rf : Byte := (if fitsS v1 16 then 0 else 2) + (if fitsS v3 16 then 0 else 8) + (if fitsS v4 24 then 0 else 16)
      + (if fitsS v5 16 then 0 else 32) + (if fitsU v6 16 then 0 else 64)
    let e : Byte := (if pass then 0x00 else 0x01) ||| (if s.keyCnt.toNat = 16 then 0x00 else 0x02)
      ||| (if warn then 0x04 else 0x00)
    let p : Payload := le 2 s.rTtg.toNat ++ le 2 v1 ++ le 2 s.rAlarm.toNat ++ le 2 v3 ++ le 3 v4 ++ le 2 v5
      ++ le 2 ((v6.toNat &&& 0x3FFF : Nat) : Int)
    let n := buildNonce s.modelId s.readout s.iv
    ∃ c k : Block, exec .encode s = .next
      (if e &&& 0x03 = 0 then
        { s with
          err := e, rfield := rf, pbuf := p, nonce := n
          obuf := Vector.ofFn fun i => p[i] ^^^ (Config.blockEnc s.key n)[i.val]
          pvalid := true, nvalid := false, ovalid := true, ctr := c, ks := k }
      else { s with err := e, rfield := rf, pvalid := false, nvalid := false, ovalid := false })

/-- R175: `KEYCLR` clears the key, its count, `ERR` and `RFIELD` and nothing else, `STATUS.KEYOK` reads 0 afterwards, and
besides reset nothing else changes a loaded key. -/
def Obligations.KeyclrResult : Prop :=
  (∀ s : State, exec .keyclr s = .next
    { s with key := Vector.replicate 16 0x00, keyCnt := 0, err := 0x00, rfield := 0x00 })
  ∧ (∀ s t : State, exec .keyclr s = .next t → (readWindow t 0x01).getLsbD 0 = false)
  ∧ ∀ s t : State, step s = .next t → s.keyCnt = 16 → t.key ≠ s.key → Runs s 0x05 ∨ Delivers s .reset

/-- R176: everything that R21 stores becomes 0 but `KEY` and `KEYCNT`. The hidden `CTR` and `KS` may hold anything (R42); the
port's own fields are not the block's. -/
def Obligations.SrstResult : Prop :=
  ∀ s : State, ∃ c k : Block, exec .srst s = .next
    { err := 0, rfield := 0, keyCnt := s.keyCnt, key := s.key, modelId := 0, readout := 0, iv := 0, rTtg := 0, rVolt := 0,
      rAlarm := 0, rAux := 0, rCurr := 0, rCons := 0, rSoc := 0, pbuf := Vector.replicate 15 0,
      nonce := Vector.replicate 16 0, obuf := Vector.replicate 15 0, pvalid := false, nvalid := false, ovalid := false,
      ctr := c, ks := k, pending := s.pending, readData := s.readData }

/-! ## Arithmetic of the Field Packer -/

/-- R12: `rne` by floor quotient and remainder, the three cases of its tie, and the half-away-from-zero alternative. -/
def Obligations.RoundingByQuotientAndRemainder : Prop :=
  ∀ (t q r : Int) (f : Nat), 1 ≤ f → t = q * 2 ^ f + r → 0 ≤ r → r < 2 ^ f →
    (2 ^ (f - 1) < r → ∀ tie, roundTo tie t f = q + 1)
    ∧ (r < 2 ^ (f - 1) → ∀ tie, roundTo tie t f = q)
    ∧ (r = 2 ^ (f - 1) → (Even q → rne t f = q) ∧ (Odd q → rne t f = q + 1)
        ∧ (0 ≤ t → roundTo .halfAwayFromZero t f = q + 1) ∧ (t < 0 → roundTo .halfAwayFromZero t f = q))

/-- R12, what the cases amount to: `rne t f` is a nearest integer to `t / 2 ^ f`, and the even one of two. -/
def Obligations.RoundingIsNearestTiesToEven : Prop :=
  ∀ (t : Int) (f : Nat), 1 ≤ f →
    2 * |t - rne t f * 2 ^ f| ≤ 2 ^ f ∧ (2 * |t - rne t f * 2 ^ f| = 2 ^ f → Even (rne t f))
    ∧ ∀ n : Int, |t - rne t f * 2 ^ f| ≤ |t - n * 2 ^ f|

/-- R112 (b): under half-to-even, rounding is symmetric about zero. -/
def Obligations.RoundingIsSymmetric : Prop :=
  ∀ t : Int, rne (-t) 16 = -rne t 16

/-- R116 (e): every scaled lane's value is within half a field unit of the register's exact value times the scale. -/
def Obligations.QuantizationErrorAtMostHalf : Prop :=
  ∀ (s : State) (k : Fin 7), (fieldDesc k).scaled = true →
    2 * |fieldValues s k * 65536 - (fieldReg s k).toInt * (fieldDesc k).scale| ≤ 65536

/-- R116 (f): `quant(r, S)` is non-decreasing in the signed value of the register. -/
def Obligations.QuantizationIsMonotone : Prop :=
  ∀ (r r' : BitVec 32) (scale : Nat), r.toInt ≤ r'.toInt → quant r scale ≤ quant r' scale

/-- R117: the exact register thresholds of the range check, for every tie rule, with the values the end points round to. -/
def Obligations.RangeCheckThresholds : Prop :=
  ∀ (tie : Config.TieRule) (r : BitVec 32),
    (fitsS (quantWith tie r 100) 16 = true ↔ (0xFEB850A4#32).toInt ≤ r.toInt ∧ r.toInt ≤ (0x0147ACCC#32).toInt)
    ∧ (fitsS (quantWith tie r 1000) 24 = true ↔ (0xDF3B643A#32).toInt ≤ r.toInt ∧ r.toInt ≤ (0x20C49B85#32).toInt)
    ∧ (fitsS (quantWith tie r 10) 16 = true ↔ (0xF3332667#32).toInt ≤ r.toInt ∧ r.toInt ≤ (0x0CCCBFFF#32).toInt)
    ∧ (fitsU (quantWith tie r 10) 16 = true ↔ (0xFFFFF334#32).toInt ≤ r.toInt ∧ r.toInt ≤ (0x19998CCC#32).toInt)
    ∧ (fitsU (quantWith tie r 10) 16 = true ∧ quantWith tie r 10 ≤ 0x3FFF
        ↔ (0xFFFFF334#32).toInt ≤ r.toInt ∧ r.toInt ≤ (0x06665999#32).toInt)
    ∧ quantWith tie 0xFEB850A4 100 = -32768 ∧ quantWith tie 0x0147ACCC 100 = 32767
    ∧ quantWith tie 0xDF3B643A 1000 = -8388608 ∧ quantWith tie 0x20C49B85 1000 = 8388607
    ∧ quantWith tie 0xF3332667 10 = -32768 ∧ quantWith tie 0x0CCCBFFF 10 = 32767
    ∧ quantWith tie 0xFFFFF334 10 = 0 ∧ quantWith tie 0x19998CCC 10 = 65535
    ∧ quantWith tie 0x06665999 10 = 16383 ∧ quantWith tie 0x0666599A 10 = 16384
    ∧ fieldBits 6 (quantWith tie 0x0666599A 10) = 0

/-- R93, the 24-bit helper: pack and unpack are inverse to each other on the values that fit and on every 3-byte string. -/
def Obligations.Signed24RoundTrip : Prop :=
  (∀ v : Int, fitsS v 24 = true → unpackS24 (packS24 v) = v) ∧ ∀ b : Vector Byte 3, packS24 (unpackS24 b) = b

/-- R116 (d): after a successful `PACK`, the inverse of each field gives its value back, the state of charge modulo 16384. -/
def Obligations.FieldReadBackAfterPack : Prop :=
  ∀ s t : State, exec .pack s = .next t → t.err &&& 0x01 = 0 →
    (∀ k : Fin 7, k ≠ 6 → unpackField t.pbuf k = fieldValues s k)
    ∧ unpackField t.pbuf 6 = fieldValues s 6 - 16384 * (fieldValues s 6 / 16384)
    ∧ (t.err &&& 0x04 = 0 → unpackField t.pbuf 6 = fieldValues s 6)

/-- R88: the payload after a successful `PACK`, bit by bit; a signed field in two's complement. -/
def Obligations.PayloadBitLayout : Prop :=
  ∀ s t : State, exec .pack s = .next t → t.err &&& 0x01 = 0 →
    let f1 := BitVec.ofInt 16 (rne (s.rVolt.toInt * 100) 16)
    let f3 := BitVec.ofInt 16 (rne (s.rAux.toInt * 100) 16)
    let f4 := BitVec.ofInt 24 (rne (s.rCurr.toInt * 1000) 16)
    let f5 := BitVec.ofInt 16 (rne (s.rCons.toInt * 10) 16)
    let f6 := BitVec.ofInt 16 (rne (s.rSoc.toInt * 10) 16) &&& 0x3FFF
    t.pbuf[0] = s.rTtg.extractLsb' 0 8 ∧ t.pbuf[1] = s.rTtg.extractLsb' 8 8
    ∧ t.pbuf[2] = f1.extractLsb' 0 8 ∧ t.pbuf[3] = f1.extractLsb' 8 8
    ∧ t.pbuf[4] = s.rAlarm.extractLsb' 0 8 ∧ t.pbuf[5] = s.rAlarm.extractLsb' 8 8
    ∧ t.pbuf[6] = f3.extractLsb' 0 8 ∧ t.pbuf[7] = f3.extractLsb' 8 8
    ∧ t.pbuf[8] = f4.extractLsb' 0 8 ∧ t.pbuf[9] = f4.extractLsb' 8 8 ∧ t.pbuf[10] = f4.extractLsb' 16 8
    ∧ t.pbuf[11] = f5.extractLsb' 0 8 ∧ t.pbuf[12] = f5.extractLsb' 8 8
    ∧ t.pbuf[13] = f6.extractLsb' 0 8 ∧ t.pbuf[14].extractLsb' 0 6 = f6.extractLsb' 8 6
    ∧ t.pbuf[14].extractLsb' 6 2 = 0

/-- R111: a lane's payload bytes and its range verdict depend on no other lane's register. -/
def Obligations.LanesAreIndependent : Prop :=
  ∀ (s s' t t' : State) (k : Fin 7), exec .pack s = .next t → exec .pack s' = .next t' → fieldReg s k = fieldReg s' k →
    t.rfield.getLsbD k = t'.rfield.getLsbD k
    ∧ (t.err &&& 0x01 = 0 → t'.err &&& 0x01 = 0 →
      ∀ j : Fin 15, (fieldDesc k).offset ≤ j.val → j.val < (fieldDesc k).offset + (fieldDesc k).bytes →
        t.pbuf[j] = t'.pbuf[j])

/-! ## Errors -/

/-- R196: the values `ERR` can hold after each command. -/
def Obligations.ErrValuesPerCommand : Prop :=
  ∀ (i : Instr) (s t : State), exec i s = .next t →
    t.err ∈ (match i with
      | .nop => [s.err]
      | .pack => [0x00, 0x01, 0x04, 0x05]
      | .nonce => [0x00]
      | .crypt => [0x00, 0x02, 0x08, 0x0A]
      | .encode => [0x00, 0x01, 0x02, 0x03, 0x04, 0x05, 0x06, 0x07]
      | .keyclr => [0x00]
      | .srst => [0x00])

/-- R191 to R194: each bit of `ERR` is set by exactly its cause, and `RFIELD` names exactly the failing lanes. -/
def Obligations.ErrorBitsHaveTheirCauses : Prop :=
  ∀ (i : Instr) (s t : State), exec i s = .next t →
    let v1 := quant s.rVolt 100
    let v3 := quant s.rAux 100
    let v4 := quant s.rCurr 1000
    let v5 := quant s.rCons 10
    let v6 := quant s.rSoc 10
    (i = .pack ∨ i = .encode →
      (t.err.getLsbD 0 = true ↔ t.rfield ≠ 0)
      ∧ (t.rfield.getLsbD 1 = true ↔ v1 < -32768 ∨ 32767 < v1)
      ∧ (t.rfield.getLsbD 3 = true ↔ v3 < -32768 ∨ 32767 < v3)
      ∧ (t.rfield.getLsbD 4 = true ↔ v4 < -8388608 ∨ 8388607 < v4)
      ∧ (t.rfield.getLsbD 5 = true ↔ v5 < -32768 ∨ 32767 < v5)
      ∧ (t.rfield.getLsbD 6 = true ↔ v6 < 0 ∨ 65535 < v6)
      ∧ (t.err.getLsbD 2 = true ↔ 0x3FFF < v6 ∧ v6 ≤ 0xFFFF))
    ∧ (i = .crypt ∨ i = .encode → (t.err.getLsbD 1 = true ↔ s.keyCnt.toNat ≠ 16))
    ∧ (i = .crypt → (t.err.getLsbD 3 = true ↔ s.pvalid = false ∨ s.nvalid = false))

/-- R197: a fatal error writes `ERR` and `RFIELD`, clears the validity flags its own rule names, and writes nothing else. -/
def Obligations.FatalErrorsWriteNoResult : Prop :=
  ∀ (i : Instr) (s t : State), exec i s = .next t → t.err &&& 0x1B ≠ 0 →
    (i = .pack → t = { s with err := t.err, rfield := t.rfield, pvalid := false, ovalid := false })
    ∧ (i = .crypt → t = { s with err := t.err, rfield := t.rfield, ovalid := false })
    ∧ (i = .encode → t = { s with
        err := t.err, rfield := t.rfield, pvalid := false, nvalid := false, ovalid := false })

/-- R31, R32, R198: `ERR` and `RFIELD` stay as written until a command other than `NOP`, or a reset. -/
def Obligations.ErrChangesOnlyByCommandsAndReset : Prop :=
  ∀ s t : State, step s = .next t → (∀ c, Runs s c → c = 0x00) → ¬Delivers s .reset →
    t.err = s.err ∧ t.rfield = s.rfield

/-! ## Nonce and cipher -/

/-- R132: determinism, injectivity, zero tail, header identity, and the size of the nonce space. -/
def Obligations.NonceLaws : Prop :=
  (∀ s t s' t' : State, SameHeader s t → exec .nonce s = .next s' → exec .nonce t = .next t' → s'.nonce = t'.nonce)
  ∧ (∀ s t s' t' : State, exec .nonce s = .next s' → exec .nonce t = .next t' → s'.nonce = t'.nonce → SameHeader s t)
  ∧ (∀ s s' : State, exec .nonce s = .next s' →
      (∀ i : Fin 16, 5 ≤ i.val → s'.nonce[i] = 0)
      ∧ ∀ i : Fin 5, s'.nonce[i.val] = readWindow s' (addr 0x51 i))
  ∧ ∀ (m : BitVec 16) (t : Byte), (Set.range (buildNonce m t)).ncard = 65536

/-- R142: `ctr_xor` of any length is counter mode: same length, and byte `16 * j + i` meets byte `i` of the block cipher's
output on the `j`-th counter block; and `CRYPT` computes it at length 15. -/
def Obligations.CtrXorIsCounterMode : Prop :=
  (∀ (enc : Block → Block → Block) (inc : Block → Block) (k n : Block) (p : List Byte),
    (ctrXor enc inc k n p).length = p.length
    ∧ ∀ (j : Nat) (i : Fin 16) (b : Byte), p[16 * j + i.val]? = some b →
      (ctrXor enc inc k n p)[16 * j + i.val]? = some (b ^^^ (enc k (inc^[j] n))[i]))
  ∧ ∀ s t : State, exec .crypt s = .next t → t.err = 0x00 →
    t.obuf.toList = ctrXor Config.blockEnc ctrInc s.key s.nonce s.pbuf.toList

/-- R143: `be_16` and `be_value` are inverse, and the next counter block is the big-endian value plus one modulo `2 ^ 128`. -/
def Obligations.CtrIncIsBigEndianPlusOne : Prop :=
  (∀ b : Block, be16 (beValue b) = b) ∧ (∀ n : Nat, n < 2 ^ 128 → beValue (be16 n) = n)
  ∧ (∀ b : Block, beValue b = ∑ i : Fin 16, (b.get i).toNat * 256 ^ (15 - i.val))
  ∧ ∀ b : Block, beValue (ctrInc b) = (beValue b + 1) % 2 ^ 128 ∧ ctrInc b = be16 ((beValue b + 1) % 2 ^ 128)

/-- R144: at 16 bytes or fewer the increment is not observable, and so not in `OBUF` after `CRYPT` or `ENCODE`. -/
def Obligations.CtrIncIsNotObservable : Prop :=
  (∀ (enc : Block → Block → Block) (inc : Block → Block) (k n : Block) (p : List Byte) (i : Fin 16) (b : Byte),
    p.length ≤ 16 → p[i.val]? = some b → (ctrXor enc inc k n p)[i.val]? = some (b ^^^ (enc k n)[i]))
  ∧ ∀ (inc : Block → Block) (s t : State),
    (exec .crypt s = .next t → t.err = 0x00 →
      t.obuf.toList = ctrXor Config.blockEnc inc s.key s.nonce s.pbuf.toList)
    ∧ (exec .encode s = .next t → t.err &&& 0x03 = 0 →
      t.obuf.toList = ctrXor Config.blockEnc inc s.key t.nonce t.pbuf.toList)

/-- R147: length, involution, no integrity, nonce reuse, for every block cipher, increment, key, block and byte strings. -/
def Obligations.CtrXorLaws : Prop :=
  ∀ (enc : Block → Block → Block) (inc : Block → Block) (k n : Block) (p q : List Byte), p.length = q.length →
    (ctrXor enc inc k n p).length = p.length
    ∧ ctrXor enc inc k n (ctrXor enc inc k n p) = p
    ∧ ctrXor enc inc k n (List.zipWith (· ^^^ ·) p q) = List.zipWith (· ^^^ ·) (ctrXor enc inc k n p) q
    ∧ List.zipWith (· ^^^ ·) (ctrXor enc inc k n p) (ctrXor enc inc k n q) = List.zipWith (· ^^^ ·) p q

/-- R165 (c) with the sequence of R146: the record of a successful `ENCODE`, put by the host into the header registers and
`PBUF` of any instance that holds the same key, then `NONCE` and `CRYPT`, gives the payload back in `OUT[6..20]`. It rests on
no property of the block cipher. -/
def Obligations.DecryptionRecoversThePayload : Prop :=
  ∀ s s' t u w : State, exec .encode s = .next s' → s'.err &&& 0x03 = 0 →
    t.key = s.key → t.keyCnt = 16 → t.pvalid = true →
    t.modelId.toNat = (readWindow s' (addr 0x50 1)).toNat + 256 * (readWindow s' (addr 0x50 2)).toNat →
    t.readout = readWindow s' (addr 0x50 3) →
    t.iv.toNat = (readWindow s' (addr 0x50 4)).toNat + 256 * (readWindow s' (addr 0x50 5)).toNat →
    (∀ i : Fin 15, t.pbuf[i] = readWindow s' (addr 0x56 i)) →
    exec .nonce t = .next u → exec .crypt u = .next w →
    w.err = 0x00 ∧ w.ovalid = true ∧ ∀ i : Fin 15, readWindow w (addr 0x56 i) = s'.pbuf[i]

/-- R161: where `ENCODE` succeeds, the state after it is the state after `PACK`, `NONCE`, `CRYPT`, but for `ERR`; where the
range check fails, the sequence differs as the rule says. -/
def Obligations.EncodeEqualsTheStages : Prop :=
  ∀ s t a b c : State, exec .encode s = .next t → exec .pack s = .next a → exec .nonce a = .next b →
    exec .crypt b = .next c →
    (t.err &&& 0x03 = 0 → t = { c with err := t.err } ∧ c.err = 0x00 ∧ t.err = a.err
      ∧ (t.err = if socWarn (fieldValues s) then 0x04 else 0x00))
    ∧ (t.err &&& 0x03 ≠ 0 → t.pbuf = s.pbuf ∧ t.nonce = s.nonce ∧ t.obuf = s.obuf)
    ∧ (a.err &&& 0x01 ≠ 0 → b.nonce = buildNonce s.modelId s.readout s.iv ∧ b.nvalid = true ∧ c.err &&& 0x08 ≠ 0)

/-- R46: what each datapath command writes is a function of the inputs R44 lists for it and of nothing else. -/
def Obligations.ResultsDependOnlyOnInputs : Prop :=
  ∀ s t s' t' : State,
    (SameReadings s t → exec .pack s = .next s' → exec .pack t = .next t' →
      s'.err = t'.err ∧ s'.rfield = t'.rfield ∧ s'.pvalid = t'.pvalid ∧ s'.ovalid = t'.ovalid
        ∧ (s'.err &&& 0x01 = 0 → s'.pbuf = t'.pbuf))
    ∧ (SameHeader s t → exec .nonce s = .next s' → exec .nonce t = .next t' →
      s'.err = t'.err ∧ s'.rfield = t'.rfield ∧ s'.nonce = t'.nonce ∧ s'.nvalid = t'.nvalid ∧ s'.ovalid = t'.ovalid)
    ∧ (SameKey s t → s.nonce = t.nonce → s.pbuf = t.pbuf → s.pvalid = t.pvalid → s.nvalid = t.nvalid →
      exec .crypt s = .next s' → exec .crypt t = .next t' →
      s'.err = t'.err ∧ s'.rfield = t'.rfield ∧ s'.nvalid = t'.nvalid ∧ s'.ovalid = t'.ovalid
        ∧ (s'.err = 0x00 → s'.obuf = t'.obuf))
    ∧ (SameReadings s t → SameHeader s t → SameKey s t → exec .encode s = .next s' → exec .encode t = .next t' →
      s'.err = t'.err ∧ s'.rfield = t'.rfield ∧ s'.pvalid = t'.pvalid ∧ s'.nvalid = t'.nvalid ∧ s'.ovalid = t'.ovalid
        ∧ (s'.err &&& 0x03 = 0 → s'.pbuf = t'.pbuf ∧ s'.nonce = t'.nonce ∧ s'.obuf = t'.obuf))

/-- R162: the 21 bytes the host reads at `OUT` after a successful `ENCODE` are the record of the type constant, the nonce of
the header registers and the counter-mode encryption of the payload. -/
def Obligations.RecordWindowAfterEncode : Prop :=
  ∀ s t : State, exec .encode s = .next t → t.err &&& 0x03 = 0 →
    (List.ofFn fun i : Fin 21 => readWindow t (addr 0x50 i))
      = Config.recordType :: (buildNonce s.modelId s.readout s.iv).toList.take 5
        ++ ctrXor Config.blockEnc ctrInc s.key (buildNonce s.modelId s.readout s.iv) (payloadOf (fieldValues s)).toList

/-- R226, R147 (e): two successful `ENCODE`s under one key with the same header registers leak the XOR of their payloads. -/
def Obligations.NonceReuseLeaksTheXor : Prop :=
  ∀ s t s' t' : State, SameKey s t → SameHeader s t → exec .encode s = .next s' → exec .encode t = .next t' →
    s'.err &&& 0x03 = 0 → t'.err &&& 0x03 = 0 →
    ∀ i : Fin 15, s'.obuf[i] ^^^ t'.obuf[i] = s'.pbuf[i] ^^^ t'.pbuf[i]

/-- R115, R131, R145, R160, R174, R175, R176: `NOP`, `PACK`, `NONCE`, `ENCODE`, `KEYCLR` and `SRST` repeated give the same
state again; after a successful `CRYPT` a second one fails with `E_SEQ`, keeps `OBUF` and clears `OVALID`. -/
def Obligations.RepeatedCommands : Prop :=
  ∀ (i : Instr) (s t u : State), exec i s = .next t → exec i t = .next u →
    (i ≠ .crypt → u = t)
    ∧ (i = .crypt → t.err = 0x00 → u.err = 0x08 ∧ u.obuf = t.obuf ∧ u.ovalid = false)

/-! ## Host accesses -/

/-- R170: a host read returns the byte of the table and changes no state of the block. -/
def Obligations.HostReadReturnsTheTable : Prop :=
  ∀ s : State,
    (∀ (a : Addr) (rest : List HostEvent), s.pending = .read a :: rest →
      step s = .next { s with pending := rest, readData := some (readWindow s a) })
    ∧ readWindow s 0x00 = 0x00 ∧ readWindow s 0x04 = 0x00
    ∧ (readWindow s 0x01).toNat
      = (if s.keyCnt.toNat = 16 then 1 else 0) + 2 * s.pvalid.toNat + 4 * s.nvalid.toNat + 8 * s.ovalid.toNat
    ∧ readWindow s 0x02 = s.err ∧ readWindow s 0x03 = s.rfield ∧ (readWindow s 0x05).toNat = s.keyCnt.toNat
    ∧ readWindow s 0x06 = Config.recordType
    ∧ (∀ i : Fin 2, readWindow s (addr 0x08 i) = s.modelId.extractLsb' (8 * i) 8)
    ∧ readWindow s 0x0A = s.readout
    ∧ (∀ i : Fin 2, readWindow s (addr 0x0C i) = s.iv.extractLsb' (8 * i) 8)
    ∧ (∀ i : Fin 2, readWindow s (addr 0x10 i) = s.rTtg.extractLsb' (8 * i) 8)
    ∧ (∀ i : Fin 4, readWindow s (addr 0x14 i) = s.rVolt.extractLsb' (8 * i) 8)
    ∧ (∀ i : Fin 2, readWindow s (addr 0x18 i) = s.rAlarm.extractLsb' (8 * i) 8)
    ∧ (∀ i : Fin 4, readWindow s (addr 0x1C i) = s.rAux.extractLsb' (8 * i) 8)
    ∧ (∀ i : Fin 4, readWindow s (addr 0x20 i) = s.rCurr.extractLsb' (8 * i) 8)
    ∧ (∀ i : Fin 4, readWindow s (addr 0x24 i) = s.rCons.extractLsb' (8 * i) 8)
    ∧ (∀ i : Fin 4, readWindow s (addr 0x28 i) = s.rSoc.extractLsb' (8 * i) 8)
    ∧ (∀ i : Fin 15, readWindow s (addr 0x30 i) = s.pbuf[i])
    ∧ (∀ i : Fin 16, readWindow s (addr 0x40 i) = s.nonce[i])
    ∧ readWindow s 0x50 = Config.recordType
    ∧ (∀ i : Fin 5, readWindow s (addr 0x51 i) = s.nonce[i.val])
    ∧ (∀ i : Fin 15, readWindow s (addr 0x56 i) = s.obuf[i])
    ∧ ∀ a : Addr, isReserved a → readWindow s a = 0x00

/-- R171, R62: a host write to a byte of a header or reading register replaces exactly that byte; every other byte of the
window and every other part of the state is as before. -/
def Obligations.PlainRegisterWrite : Prop :=
  ∀ (s : State) (a : Addr) (v : Byte) (rest : List HostEvent), s.pending = .write a v :: rest → isPlainRegister a →
    ∃ t : State, step s = .next t ∧ readWindow t a = v ∧ (∀ b : Addr, b ≠ a → readWindow t b = readWindow s b)
      ∧ t = { s with
          modelId := t.modelId, readout := t.readout, iv := t.iv, rTtg := t.rTtg, rVolt := t.rVolt, rAlarm := t.rAlarm
          rAux := t.rAux, rCurr := t.rCurr, rCons := t.rCons, rSoc := t.rSoc, pending := rest, readData := none }

/-- R172, the two cases of a write to `KEYIN`. -/
def Obligations.KeyinWrite : Prop :=
  ∀ (s : State) (v : Byte) (rest : List HostEvent), s.pending = .write 0x04 v :: rest →
    (∀ h : s.keyCnt.toNat < 16, step s = .next
      { s with
        pending := rest, readData := none, key := s.key.set s.keyCnt.toNat v h
        keyCnt := BitVec.ofNat 5 (s.keyCnt.toNat + 1) })
    ∧ (16 ≤ s.keyCnt.toNat → step s = .next { s with pending := rest, readData := none, keyCnt := 17 })

/-- R172, R149 with the `KEY` line of R97: `KEYCLR` and the bytes of `h` pushed leave `KEYCNT` at their number or at 17, the
key at those bytes with zeros behind, and `KEYOK` exactly when there were 16. -/
def Obligations.KeyLoadCountsTheBytes : Prop :=
  ∀ (s : State) (h : List Byte), s.pending = expandLine (.key h) →
    ∃ t : State, after (h.length + 1) s = .next t
      ∧ t.keyCnt.toNat = min h.length 17
      ∧ ((readWindow t 0x01).getLsbD 0 = true ↔ h.length = 16)
      ∧ (∀ i : Fin 16, t.key[i] = h[i.val]?.getD 0x00)
      ∧ t = { s with err := 0, rfield := 0, key := t.key, keyCnt := t.keyCnt, pending := [], readData := none }

/-- R173, R65: a write to a byte of `PBUF` stores it, sets `PVALID`, clears `OVALID`; a write to a read-only or reserved
location changes nothing; a write to `CMD` executes a command. -/
def Obligations.PbufAndOtherWrites : Prop :=
  ∀ (s : State) (v : Byte) (rest : List HostEvent),
    (∀ i : Fin 15, s.pending = .write (addr 0x30 i) v :: rest → step s = .next
      { s with pending := rest, readData := none, pbuf := s.pbuf.set i v, pvalid := true, ovalid := false })
    ∧ (∀ a : Addr, s.pending = .write a v :: rest → isReadOnly a ∨ isReserved a →
      step s = .next { s with pending := rest, readData := none })
    ∧ (∀ i : Instr, s.pending = .write 0x00 v :: rest → decode v = .ok i →
      step s = exec i { s with pending := rest, readData := none })

/-- R65: reserved and write-only locations read 0; writes to reserved and read-only locations change no state; the reserved
bits of `STATUS`, `KEYCNT`, and in a state with the invariant of `ERR` and `RFIELD`, read 0. -/
def Obligations.ReservedAndReadOnlyLocations : Prop :=
  ∀ s : State,
    (∀ a : Addr, isReserved a ∨ a.toNat = 0x00 ∨ a.toNat = 0x04 → readWindow s a = 0x00)
    ∧ (∀ (a : Addr) (v : Byte) (rest : List HostEvent), s.pending = .write a v :: rest → isReserved a ∨ isReadOnly a →
      step s = .next { s with pending := rest, readData := none })
    ∧ (readWindow s 0x01) &&& 0xF0 = 0 ∧ (readWindow s 0x05) &&& 0xE0 = 0
    ∧ (Inv s → (readWindow s 0x02) &&& 0xE0 = 0 ∧ (readWindow s 0x03) &&& 0x80 = 0)

/-- R64: a write of the same byte twice is the write once, at every address but `CMD` and `KEYIN`. -/
def Obligations.WritesAreIdempotent : Prop :=
  ∀ (s t : State) (a : Addr) (v : Byte) (rest : List HostEvent),
    s.pending = .write a v :: .write a v :: rest → a ≠ 0x00 → a ≠ 0x04 → step s = .next t →
    step t = .next { t with pending := rest }

/-- R61 with the `W16` and `W32` lines of R97: the bytes of a value written low byte first make that value in the register,
and nothing else of the block changes. -/
def Obligations.WordWritesAreLittleEndian : Prop :=
  ∀ (s : State) (v : Nat),
    (s.pending = expandLine (.w16 (.reg .MODELID 0) v) → after 2 s
      = .next { s with modelId := BitVec.ofNat 16 v, pending := [], readData := none })
    ∧ (s.pending = expandLine (.w16 (.reg .IV 0) v) → after 2 s
      = .next { s with iv := BitVec.ofNat 16 v, pending := [], readData := none })
    ∧ (s.pending = expandLine (.w16 (.reg .R_TTG 0) v) → after 2 s
      = .next { s with rTtg := BitVec.ofNat 16 v, pending := [], readData := none })
    ∧ (s.pending = expandLine (.w16 (.reg .R_ALARM 0) v) → after 2 s
      = .next { s with rAlarm := BitVec.ofNat 16 v, pending := [], readData := none })
    ∧ (s.pending = expandLine (.w32 (.reg .R_VOLT 0) v) → after 4 s
      = .next { s with rVolt := BitVec.ofNat 32 v, pending := [], readData := none })
    ∧ (s.pending = expandLine (.w32 (.reg .R_AUX 0) v) → after 4 s
      = .next { s with rAux := BitVec.ofNat 32 v, pending := [], readData := none })
    ∧ (s.pending = expandLine (.w32 (.reg .R_CURR 0) v) → after 4 s
      = .next { s with rCurr := BitVec.ofNat 32 v, pending := [], readData := none })
    ∧ (s.pending = expandLine (.w32 (.reg .R_CONS 0) v) → after 4 s
      = .next { s with rCons := BitVec.ofNat 32 v, pending := [], readData := none })
    ∧ (s.pending = expandLine (.w32 (.reg .R_SOC 0) v) → after 4 s
      = .next { s with rSoc := BitVec.ofNat 32 v, pending := [], readData := none })

/-! ## Reset -/

/-- R45: every stored location after hardware reset, and what `STATUS`, `RECTYPE` and `OUT` then read. -/
def Obligations.ResetValues : Prop :=
  let s := State.reset
  s.err = 0 ∧ s.rfield = 0 ∧ s.keyCnt = 0 ∧ s.key = Vector.replicate 16 0 ∧ s.modelId = 0 ∧ s.readout = 0 ∧ s.iv = 0
    ∧ s.rTtg = 0 ∧ s.rVolt = 0 ∧ s.rAlarm = 0 ∧ s.rAux = 0 ∧ s.rCurr = 0 ∧ s.rCons = 0 ∧ s.rSoc = 0
    ∧ s.pbuf = Vector.replicate 15 0 ∧ s.nonce = Vector.replicate 16 0 ∧ s.obuf = Vector.replicate 15 0
    ∧ s.pvalid = false ∧ s.nvalid = false ∧ s.ovalid = false
    ∧ readWindow s 0x01 = 0 ∧ readWindow s 0x06 = Config.recordType
    ∧ (List.ofFn fun i : Fin 21 => readWindow s (addr 0x50 i)) = Config.recordType :: List.replicate 20 0

/-- R220: the reset event, from any state, puts every stored location at its reset value; `SRST` does the same but keeps the
key and its count. -/
def Obligations.ResetEventClearsEverything : Prop :=
  ∀ s t : State, (Delivers s .reset ∧ step s = .next t) ∨ exec .srst s = .next t →
    t.err = 0 ∧ t.rfield = 0 ∧ t.modelId = 0 ∧ t.readout = 0 ∧ t.iv = 0
    ∧ t.rTtg = 0 ∧ t.rVolt = 0 ∧ t.rAlarm = 0 ∧ t.rAux = 0 ∧ t.rCurr = 0 ∧ t.rCons = 0 ∧ t.rSoc = 0
    ∧ t.pbuf = Vector.replicate 15 0 ∧ t.nonce = Vector.replicate 16 0 ∧ t.obuf = Vector.replicate 15 0
    ∧ t.pvalid = false ∧ t.nvalid = false ∧ t.ovalid = false
    ∧ (Delivers s .reset ∧ step s = .next t → t.keyCnt = 0 ∧ t.key = Vector.replicate 16 0)
    ∧ (exec .srst s = .next t → t.keyCnt = s.keyCnt ∧ t.key = s.key)

/-- R221: what works straight after reset. -/
def Obligations.WhatWorksAfterReset : Prop :=
  (∀ a : Addr, readWindow State.reset a = if a = 0x06 ∨ a = 0x50 then Config.recordType else 0x00)
  ∧ (∃ t, exec .crypt State.reset = .next t ∧ t.err = 0x0A)
  ∧ (∃ t, exec .encode State.reset = .next t ∧ t.err = 0x02)
  ∧ ∃ a b c, exec .pack State.reset = .next a ∧ a.pbuf = Vector.replicate 15 0 ∧ a.err = 0x00 ∧ a.pvalid = true
    ∧ exec .nonce a = .next b ∧ b.nonce = Vector.replicate 16 0 ∧ exec .crypt b = .next c ∧ c.err = 0x02

/-- R221 ("no ciphertext can leave the block until a 16-byte key has been loaded"), R149: a step writes `OBUF` only by a
reset, which makes it zeros, or by a `CRYPT` or `ENCODE` with exactly 16 key bytes pushed. -/
def Obligations.NoCiphertextWithoutAKey : Prop :=
  ∀ s t : State, step s = .next t →
    t.obuf = s.obuf
    ∨ (t.obuf = Vector.replicate 15 0 ∧ (Runs s 0x06 ∨ Delivers s .reset))
    ∨ (s.keyCnt = 16 ∧ t.ovalid = true ∧ (Runs s 0x03 ∨ Runs s 0x04))

/-! ## Invariants and whole-machine rules -/

/-- The invariant `Inv` holds at reset. -/
def Obligations.InvHoldsAtReset : Prop :=
  Inv State.reset

/-- R35, R38, R31, R32, R27 to R29: every step keeps the invariant `Inv`, from every state that has it. -/
def Obligations.StepKeepsInv : Prop :=
  ∀ s t : State, Inv s → step s = .next t → Inv t

/-- R29: it holds at reset, and every step keeps it, that a record flagged valid is one complete, self-consistent record. -/
def Obligations.ValidRecordIsSelfConsistent : Prop :=
  RecordInv State.reset ∧ ∀ s t : State, RecordInv s → step s = .next t → RecordInv t

/-- R27: what sets, clears and reads `PVALID`; nothing else changes it. -/
def Obligations.PvalidTransitions : Prop :=
  ∀ s t : State, step s = .next t →
    (t.pvalid = true ↔
      ((Runs s 0x01 ∧ t.err &&& 0x01 = 0) ∨ (Runs s 0x04 ∧ t.err &&& 0x03 = 0) ∨ WritesPbuf s)
      ∨ (s.pvalid = true
        ∧ ¬((Runs s 0x01 ∧ t.err &&& 0x01 ≠ 0) ∨ (Runs s 0x04 ∧ t.err &&& 0x03 ≠ 0) ∨ Runs s 0x06 ∨ Delivers s .reset)))
    ∧ (Runs s 0x03 → s.pvalid = false → t.err &&& 0x08 ≠ 0)

/-- R28: what sets, clears and reads `NVALID`; nothing else changes it. -/
def Obligations.NvalidTransitions : Prop :=
  ∀ s t : State, step s = .next t →
    (t.nvalid = true ↔
      Runs s 0x02
      ∨ (s.nvalid = true
        ∧ ¬((Runs s 0x03 ∧ t.err = 0) ∨ Runs s 0x04 ∨ Runs s 0x06 ∨ Delivers s .reset)))
    ∧ (Runs s 0x03 → s.nvalid = false → t.err &&& 0x08 ≠ 0)

/-- R29: what sets and clears `OVALID`; nothing else changes it. -/
def Obligations.OvalidTransitions : Prop :=
  ∀ s t : State, step s = .next t →
    (t.ovalid = true ↔
      ((Runs s 0x03 ∧ t.err = 0) ∨ (Runs s 0x04 ∧ t.err &&& 0x03 = 0))
      ∨ (s.ovalid = true
        ∧ ¬(Runs s 0x01 ∨ Runs s 0x02 ∨ (Runs s 0x03 ∧ t.err ≠ 0) ∨ (Runs s 0x04 ∧ t.err &&& 0x03 ≠ 0) ∨ WritesPbuf s
          ∨ Runs s 0x06 ∨ Delivers s .reset)))

/-- R35, R202: no host read depends on the key, and no step but `CRYPT` and `ENCODE` carries it anywhere. -/
def Obligations.KeyIsNotReadable : Prop :=
  ∀ (s : State) (k : Block),
    (∀ a : Addr, readWindow { s with key := k } a = readWindow s a)
    ∧ (¬Runs s 0x03 → ¬Runs s 0x04 →
      ∃ (t : State) (k' : Block), step s = .next t ∧ step { s with key := k } = .next { t with key := k' })

/-- R35: only a write to `KEYIN`, `KEYCLR` and reset change the key or its count. -/
def Obligations.KeyChangesOnlyByKeyinKeyclrReset : Prop :=
  ∀ s t : State, step s = .next t → t.key ≠ s.key ∨ t.keyCnt ≠ s.keyCnt →
    (∃ v, Delivers s (.write 0x04 v)) ∨ Runs s 0x05 ∨ Delivers s .reset

/-- R42: the hidden registers `CTR` and `KS` cannot be observed and cannot influence anything. -/
def Obligations.HiddenRegistersAreNotObservable : Prop :=
  ∀ (s : State) (c k : Block),
    (∀ a : Addr, readWindow { s with ctr := c, ks := k } a = readWindow s a)
    ∧ ∃ (t : State) (c' k' : Block), step s = .next t
      ∧ step { s with ctr := c, ks := k } = .next { t with ctr := c', ks := k' }

/-- R23, R24: no command but `SRST` writes a reading or header register; they hold until the host writes them. -/
def Obligations.OperandsChangeOnlyByHostSrstReset : Prop :=
  ∀ s t : State, step s = .next t → ¬(SameReadings s t ∧ SameHeader s t) →
    (∃ a v, Delivers s (.write a v) ∧ isPlainRegister a) ∨ Runs s 0x06 ∨ Delivers s .reset
end

