-- ==== Sys2Proof/Laws/Operands.lean ====
section
/-!
SUPPORT. What the pure arithmetic of the commands gives, said once: the range checks as inequalities, the bytes of `le_n` and
back, the seven field values, the payload and the record byte by byte.
-/

namespace Sys2Proof.Machine

/-! ## Ranges (R11) -/

theorem fitsS_iff (v : Int) (w : Nat) : fitsS v w = true ↔ -2 ^ (w - 1) ≤ v ∧ v ≤ 2 ^ (w - 1) - 1 := by
  simp [fitsS]

theorem fitsU_iff (v : Int) (w : Nat) : fitsU v w = true ↔ 0 ≤ v ∧ v ≤ 2 ^ w - 1 := by
  simp [fitsU]

/-! ## Byte strings (R10) -/

/-- R10: byte `i` of `le_n(v)` is byte `i` of the two's-complement word. -/
theorem getElem_le (n : Nat) (v : Int) (i : Nat) (h : i < n) : (le n v)[i] = byteOf (BitVec.ofInt (8 * n) v) i := by
  apply BitVec.eq_of_toNat_eq
  simp only [le, Vector.getElem_ofFn, byteOf, BitVec.extractLsb'_toNat, BitVec.toNat_ofInt, Nat.shiftRight_eq_div_pow]
  obtain ⟨x, hx⟩ := Int.eq_ofNat_of_zero_le (Int.emod_nonneg v (show (2 ^ (8 * n) : Int) ≠ 0 by positivity))
  have e : v % ((2 ^ (8 * n) : Nat) : Int) = x := by push_cast; exact hx
  rw [e, hx]
  norm_cast

theorem uintLE_ofFn (n x : Nat) (h : x < 2 ^ (8 * n)) :
    uintLE (List.ofFn fun i : Fin n => BitVec.ofNat 8 (x / 2 ^ (8 * i.val))) = x := by
  induction n generalizing x with
  | zero => simp at h; subst h; rfl
  | succ n ih =>
    rw [List.ofFn_succ]
    simp only [uintLE]
    have e : (List.ofFn fun i : Fin n => BitVec.ofNat 8 (x / 2 ^ (8 * i.succ.val)))
        = List.ofFn fun i : Fin n => BitVec.ofNat 8 (x / 256 / 2 ^ (8 * i.val)) := by
      congr 1; funext i
      rw [Nat.div_div_eq_div_mul]; congr 2
      simp [mul_add, pow_add]; ring
    rw [mul_add, pow_add] at h
    rw [e, ih (x / 256) (by rw [Nat.div_lt_iff_lt_mul (by norm_num)]; simpa using h)]
    simp; omega

/-- R10: `uint` of `le_n(v)` is `v` modulo `2 ^ (8 n)`. -/
theorem uintLE_le (n : Nat) (v : Int) : uintLE (le n v).toList = (v % 2 ^ (8 * n)).toNat := by
  obtain ⟨x, hx⟩ := Int.eq_ofNat_of_zero_le (Int.emod_nonneg v (show (2 ^ (8 * n) : Int) ≠ 0 by positivity))
  have hlt : x < 2 ^ (8 * n) := by
    have := Int.emod_lt_of_pos v (show (0 : Int) < 2 ^ (8 * n) by positivity)
    rw [hx] at this; exact_mod_cast this
  have e : (le n v).toList = List.ofFn fun i : Fin n => BitVec.ofNat 8 (x / 2 ^ (8 * i.val)) := by
    simp only [le, Vector.toList_ofFn, hx]
    congr 1
  rw [e, uintLE_ofFn n x hlt, hx]; rfl

/-! ## The seven fields (R84, R86, R88) -/

/-- R115: the seven values, lane by lane. -/
theorem fieldValues_eq (s : State) :
    fieldValues s 0 = s.rTtg.toNat ∧ fieldValues s 1 = rne (s.rVolt.toInt * 100) 16 ∧ fieldValues s 2 = s.rAlarm.toNat
      ∧ fieldValues s 3 = rne (s.rAux.toInt * 100) 16 ∧ fieldValues s 4 = rne (s.rCurr.toInt * 1000) 16
      ∧ fieldValues s 5 = rne (s.rCons.toInt * 10) 16 ∧ fieldValues s 6 = rne (s.rSoc.toInt * 10) 16 := by
  refine ⟨?_, rfl, ?_, rfl, rfl, rfl, rfl⟩
  · have := s.rTtg.isLt
    simp [fieldValues, laneValue, fieldDesc, fieldReg]; omega
  · have := s.rAlarm.isLt
    simp [fieldValues, laneValue, fieldDesc, fieldReg]; omega

/-- R86: every field but the state of charge is encoded as it is. -/
theorem fieldBits_of_ne (k : Fin 7) (h : k ≠ 6) (v : Int) : fieldBits k v = v := by
  fin_cases k <;> first | rfl | exact absurd rfl h

/-- R88: the payload byte by byte. -/
theorem payloadOf_eq (v : Fin 7 → Int) :
    payloadOf v =
      #v[(le 2 (fieldBits 0 (v 0)))[0], (le 2 (fieldBits 0 (v 0)))[1], (le 2 (fieldBits 1 (v 1)))[0],
        (le 2 (fieldBits 1 (v 1)))[1], (le 2 (fieldBits 2 (v 2)))[0], (le 2 (fieldBits 2 (v 2)))[1],
        (le 2 (fieldBits 3 (v 3)))[0], (le 2 (fieldBits 3 (v 3)))[1], (le 3 (fieldBits 4 (v 4)))[0],
        (le 3 (fieldBits 4 (v 4)))[1], (le 3 (fieldBits 4 (v 4)))[2], (le 2 (fieldBits 5 (v 5)))[0],
        (le 2 (fieldBits 5 (v 5)))[1], (le 2 (fieldBits 6 (v 6)))[0], (le 2 (fieldBits 6 (v 6)))[1]] := by
  have two : ∀ a : Vector Byte 2, ∃ x y, a = #v[x, y] := fun a =>
    ⟨a[0], a[1], by apply Vector.ext; intro i hi; interval_cases i <;> rfl⟩
  have three : ∀ a : Vector Byte 3, ∃ x y z, a = #v[x, y, z] := fun a =>
    ⟨a[0], a[1], a[2], by apply Vector.ext; intro i hi; interval_cases i <;> rfl⟩
  unfold payloadOf
  generalize le 2 (fieldBits 0 (v 0)) = a0
  generalize le 2 (fieldBits 1 (v 1)) = a1
  generalize le 2 (fieldBits 2 (v 2)) = a2
  generalize le 2 (fieldBits 3 (v 3)) = a3
  generalize le 3 (fieldBits 4 (v 4)) = a4
  generalize le 2 (fieldBits 5 (v 5)) = a5
  generalize le 2 (fieldBits 6 (v 6)) = a6
  obtain ⟨_, _, rfl⟩ := two a0
  obtain ⟨_, _, rfl⟩ := two a1
  obtain ⟨_, _, rfl⟩ := two a2
  obtain ⟨_, _, rfl⟩ := two a3
  obtain ⟨_, _, _, rfl⟩ := three a4
  obtain ⟨_, _, rfl⟩ := two a5
  obtain ⟨_, _, rfl⟩ := two a6
  rfl

/-! ## Record and keystream (R92, R141) -/

/-- R92: the record byte by byte. -/
theorem getElem_record (t : Byte) (n : Block) (b : Payload) (i : Nat) (h : i < 21) :
    (record t n b)[i] =
      if h6 : i < 6 then (#v[t, n[0], n[1], n[2], n[3], n[4]] : Vector Byte 6)[i] else b[i - 6] :=
  (Vector.getElem_append (xs := (#v[t] ++ #v[n[0], n[1], n[2], n[3], n[4]] : Vector Byte (1 + 5))) (ys := b) (i := i)
    (by omega)).trans rfl

/-- R141: the XOR datapath, byte by byte. -/
theorem getElem_xorPayload (p : Payload) (ks : Block) (i : Nat) (h : i < 15) : (xorPayload p ks)[i] = p[i] ^^^ ks[i] := by
  simp [xorPayload]

end Sys2Proof.Machine
end

