-- ==== Sys2Proof/Laws/State.lean ====
section
/-!
SUPPORT. One lemma per field and named update of the state, true by unfolding, so that no proof opens a record update.
-/

namespace Sys2Proof.Machine

/-! `report` (R31, R32) -/

@[simp] theorem report_err (e rf : Byte) (s : State) : (report e rf s).err = e := rfl
@[simp] theorem report_rfield (e rf : Byte) (s : State) : (report e rf s).rfield = rf := rfl
@[simp] theorem report_keyCnt (e rf : Byte) (s : State) : (report e rf s).keyCnt = s.keyCnt := rfl
@[simp] theorem report_key (e rf : Byte) (s : State) : (report e rf s).key = s.key := rfl
@[simp] theorem report_modelId (e rf : Byte) (s : State) : (report e rf s).modelId = s.modelId := rfl
@[simp] theorem report_readout (e rf : Byte) (s : State) : (report e rf s).readout = s.readout := rfl
@[simp] theorem report_iv (e rf : Byte) (s : State) : (report e rf s).iv = s.iv := rfl
@[simp] theorem report_rTtg (e rf : Byte) (s : State) : (report e rf s).rTtg = s.rTtg := rfl
@[simp] theorem report_rVolt (e rf : Byte) (s : State) : (report e rf s).rVolt = s.rVolt := rfl
@[simp] theorem report_rAlarm (e rf : Byte) (s : State) : (report e rf s).rAlarm = s.rAlarm := rfl
@[simp] theorem report_rAux (e rf : Byte) (s : State) : (report e rf s).rAux = s.rAux := rfl
@[simp] theorem report_rCurr (e rf : Byte) (s : State) : (report e rf s).rCurr = s.rCurr := rfl
@[simp] theorem report_rCons (e rf : Byte) (s : State) : (report e rf s).rCons = s.rCons := rfl
@[simp] theorem report_rSoc (e rf : Byte) (s : State) : (report e rf s).rSoc = s.rSoc := rfl
@[simp] theorem report_pbuf (e rf : Byte) (s : State) : (report e rf s).pbuf = s.pbuf := rfl
@[simp] theorem report_nonce (e rf : Byte) (s : State) : (report e rf s).nonce = s.nonce := rfl
@[simp] theorem report_obuf (e rf : Byte) (s : State) : (report e rf s).obuf = s.obuf := rfl
@[simp] theorem report_pvalid (e rf : Byte) (s : State) : (report e rf s).pvalid = s.pvalid := rfl
@[simp] theorem report_nvalid (e rf : Byte) (s : State) : (report e rf s).nvalid = s.nvalid := rfl
@[simp] theorem report_ovalid (e rf : Byte) (s : State) : (report e rf s).ovalid = s.ovalid := rfl
@[simp] theorem report_ctr (e rf : Byte) (s : State) : (report e rf s).ctr = s.ctr := rfl
@[simp] theorem report_ks (e rf : Byte) (s : State) : (report e rf s).ks = s.ks := rfl
@[simp] theorem report_pending (e rf : Byte) (s : State) : (report e rf s).pending = s.pending := rfl
@[simp] theorem report_readData (e rf : Byte) (s : State) : (report e rf s).readData = s.readData := rfl

/-! `setFlags` (R27 to R29) -/

@[simp] theorem setFlags_err (p n o : Bool) (s : State) : (setFlags p n o s).err = s.err := rfl
@[simp] theorem setFlags_rfield (p n o : Bool) (s : State) : (setFlags p n o s).rfield = s.rfield := rfl
@[simp] theorem setFlags_keyCnt (p n o : Bool) (s : State) : (setFlags p n o s).keyCnt = s.keyCnt := rfl
@[simp] theorem setFlags_key (p n o : Bool) (s : State) : (setFlags p n o s).key = s.key := rfl
@[simp] theorem setFlags_modelId (p n o : Bool) (s : State) : (setFlags p n o s).modelId = s.modelId := rfl
@[simp] theorem setFlags_readout (p n o : Bool) (s : State) : (setFlags p n o s).readout = s.readout := rfl
@[simp] theorem setFlags_iv (p n o : Bool) (s : State) : (setFlags p n o s).iv = s.iv := rfl
@[simp] theorem setFlags_rTtg (p n o : Bool) (s : State) : (setFlags p n o s).rTtg = s.rTtg := rfl
@[simp] theorem setFlags_rVolt (p n o : Bool) (s : State) : (setFlags p n o s).rVolt = s.rVolt := rfl
@[simp] theorem setFlags_rAlarm (p n o : Bool) (s : State) : (setFlags p n o s).rAlarm = s.rAlarm := rfl
@[simp] theorem setFlags_rAux (p n o : Bool) (s : State) : (setFlags p n o s).rAux = s.rAux := rfl
@[simp] theorem setFlags_rCurr (p n o : Bool) (s : State) : (setFlags p n o s).rCurr = s.rCurr := rfl
@[simp] theorem setFlags_rCons (p n o : Bool) (s : State) : (setFlags p n o s).rCons = s.rCons := rfl
@[simp] theorem setFlags_rSoc (p n o : Bool) (s : State) : (setFlags p n o s).rSoc = s.rSoc := rfl
@[simp] theorem setFlags_pbuf (p n o : Bool) (s : State) : (setFlags p n o s).pbuf = s.pbuf := rfl
@[simp] theorem setFlags_nonce (p n o : Bool) (s : State) : (setFlags p n o s).nonce = s.nonce := rfl
@[simp] theorem setFlags_obuf (p n o : Bool) (s : State) : (setFlags p n o s).obuf = s.obuf := rfl
@[simp] theorem setFlags_pvalid (p n o : Bool) (s : State) : (setFlags p n o s).pvalid = p := rfl
@[simp] theorem setFlags_nvalid (p n o : Bool) (s : State) : (setFlags p n o s).nvalid = n := rfl
@[simp] theorem setFlags_ovalid (p n o : Bool) (s : State) : (setFlags p n o s).ovalid = o := rfl
@[simp] theorem setFlags_ctr (p n o : Bool) (s : State) : (setFlags p n o s).ctr = s.ctr := rfl
@[simp] theorem setFlags_ks (p n o : Bool) (s : State) : (setFlags p n o s).ks = s.ks := rfl
@[simp] theorem setFlags_pending (p n o : Bool) (s : State) : (setFlags p n o s).pending = s.pending := rfl
@[simp] theorem setFlags_readData (p n o : Bool) (s : State) : (setFlags p n o s).readData = s.readData := rfl

/-! `raiseError` (R197) -/

@[simp] theorem raiseError_err (e rf : Byte) (cp cn co : Bool) (s : State) : (raiseError e rf cp cn co s).err = e := rfl
@[simp] theorem raiseError_rfield (e rf : Byte) (cp cn co : Bool) (s : State) : (raiseError e rf cp cn co s).rfield = rf := rfl
@[simp] theorem raiseError_keyCnt (e rf : Byte) (cp cn co : Bool) (s : State) : (raiseError e rf cp cn co s).keyCnt = s.keyCnt := rfl
@[simp] theorem raiseError_key (e rf : Byte) (cp cn co : Bool) (s : State) : (raiseError e rf cp cn co s).key = s.key := rfl
@[simp] theorem raiseError_modelId (e rf : Byte) (cp cn co : Bool) (s : State) : (raiseError e rf cp cn co s).modelId = s.modelId := rfl
@[simp] theorem raiseError_readout (e rf : Byte) (cp cn co : Bool) (s : State) : (raiseError e rf cp cn co s).readout = s.readout := rfl
@[simp] theorem raiseError_iv (e rf : Byte) (cp cn co : Bool) (s : State) : (raiseError e rf cp cn co s).iv = s.iv := rfl
@[simp] theorem raiseError_rTtg (e rf : Byte) (cp cn co : Bool) (s : State) : (raiseError e rf cp cn co s).rTtg = s.rTtg := rfl
@[simp] theorem raiseError_rVolt (e rf : Byte) (cp cn co : Bool) (s : State) : (raiseError e rf cp cn co s).rVolt = s.rVolt := rfl
@[simp] theorem raiseError_rAlarm (e rf : Byte) (cp cn co : Bool) (s : State) : (raiseError e rf cp cn co s).rAlarm = s.rAlarm := rfl
@[simp] theorem raiseError_rAux (e rf : Byte) (cp cn co : Bool) (s : State) : (raiseError e rf cp cn co s).rAux = s.rAux := rfl
@[simp] theorem raiseError_rCurr (e rf : Byte) (cp cn co : Bool) (s : State) : (raiseError e rf cp cn co s).rCurr = s.rCurr := rfl
@[simp] theorem raiseError_rCons (e rf : Byte) (cp cn co : Bool) (s : State) : (raiseError e rf cp cn co s).rCons = s.rCons := rfl
@[simp] theorem raiseError_rSoc (e rf : Byte) (cp cn co : Bool) (s : State) : (raiseError e rf cp cn co s).rSoc = s.rSoc := rfl
@[simp] theorem raiseError_pbuf (e rf : Byte) (cp cn co : Bool) (s : State) : (raiseError e rf cp cn co s).pbuf = s.pbuf := rfl
@[simp] theorem raiseError_nonce (e rf : Byte) (cp cn co : Bool) (s : State) : (raiseError e rf cp cn co s).nonce = s.nonce := rfl
@[simp] theorem raiseError_obuf (e rf : Byte) (cp cn co : Bool) (s : State) : (raiseError e rf cp cn co s).obuf = s.obuf := rfl
@[simp] theorem raiseError_pvalid (e rf : Byte) (cp cn co : Bool) (s : State) : (raiseError e rf cp cn co s).pvalid = (s.pvalid && !cp) := rfl
@[simp] theorem raiseError_nvalid (e rf : Byte) (cp cn co : Bool) (s : State) : (raiseError e rf cp cn co s).nvalid = (s.nvalid && !cn) := rfl
@[simp] theorem raiseError_ovalid (e rf : Byte) (cp cn co : Bool) (s : State) : (raiseError e rf cp cn co s).ovalid = (s.ovalid && !co) := rfl
@[simp] theorem raiseError_ctr (e rf : Byte) (cp cn co : Bool) (s : State) : (raiseError e rf cp cn co s).ctr = s.ctr := rfl
@[simp] theorem raiseError_ks (e rf : Byte) (cp cn co : Bool) (s : State) : (raiseError e rf cp cn co s).ks = s.ks := rfl
@[simp] theorem raiseError_pending (e rf : Byte) (cp cn co : Bool) (s : State) : (raiseError e rf cp cn co s).pending = s.pending := rfl
@[simp] theorem raiseError_readData (e rf : Byte) (cp cn co : Bool) (s : State) : (raiseError e rf cp cn co s).readData = s.readData := rfl

/-! `storePayload` (R115) -/

@[simp] theorem storePayload_err (p : Payload) (s : State) : (storePayload p s).err = s.err := rfl
@[simp] theorem storePayload_rfield (p : Payload) (s : State) : (storePayload p s).rfield = s.rfield := rfl
@[simp] theorem storePayload_keyCnt (p : Payload) (s : State) : (storePayload p s).keyCnt = s.keyCnt := rfl
@[simp] theorem storePayload_key (p : Payload) (s : State) : (storePayload p s).key = s.key := rfl
@[simp] theorem storePayload_modelId (p : Payload) (s : State) : (storePayload p s).modelId = s.modelId := rfl
@[simp] theorem storePayload_readout (p : Payload) (s : State) : (storePayload p s).readout = s.readout := rfl
@[simp] theorem storePayload_iv (p : Payload) (s : State) : (storePayload p s).iv = s.iv := rfl
@[simp] theorem storePayload_rTtg (p : Payload) (s : State) : (storePayload p s).rTtg = s.rTtg := rfl
@[simp] theorem storePayload_rVolt (p : Payload) (s : State) : (storePayload p s).rVolt = s.rVolt := rfl
@[simp] theorem storePayload_rAlarm (p : Payload) (s : State) : (storePayload p s).rAlarm = s.rAlarm := rfl
@[simp] theorem storePayload_rAux (p : Payload) (s : State) : (storePayload p s).rAux = s.rAux := rfl
@[simp] theorem storePayload_rCurr (p : Payload) (s : State) : (storePayload p s).rCurr = s.rCurr := rfl
@[simp] theorem storePayload_rCons (p : Payload) (s : State) : (storePayload p s).rCons = s.rCons := rfl
@[simp] theorem storePayload_rSoc (p : Payload) (s : State) : (storePayload p s).rSoc = s.rSoc := rfl
@[simp] theorem storePayload_pbuf (p : Payload) (s : State) : (storePayload p s).pbuf = p := rfl
@[simp] theorem storePayload_nonce (p : Payload) (s : State) : (storePayload p s).nonce = s.nonce := rfl
@[simp] theorem storePayload_obuf (p : Payload) (s : State) : (storePayload p s).obuf = s.obuf := rfl
@[simp] theorem storePayload_pvalid (p : Payload) (s : State) : (storePayload p s).pvalid = s.pvalid := rfl
@[simp] theorem storePayload_nvalid (p : Payload) (s : State) : (storePayload p s).nvalid = s.nvalid := rfl
@[simp] theorem storePayload_ovalid (p : Payload) (s : State) : (storePayload p s).ovalid = s.ovalid := rfl
@[simp] theorem storePayload_ctr (p : Payload) (s : State) : (storePayload p s).ctr = s.ctr := rfl
@[simp] theorem storePayload_ks (p : Payload) (s : State) : (storePayload p s).ks = s.ks := rfl
@[simp] theorem storePayload_pending (p : Payload) (s : State) : (storePayload p s).pending = s.pending := rfl
@[simp] theorem storePayload_readData (p : Payload) (s : State) : (storePayload p s).readData = s.readData := rfl

/-! `storeNonce` (R131) -/

@[simp] theorem storeNonce_err (b : Block) (s : State) : (storeNonce b s).err = s.err := rfl
@[simp] theorem storeNonce_rfield (b : Block) (s : State) : (storeNonce b s).rfield = s.rfield := rfl
@[simp] theorem storeNonce_keyCnt (b : Block) (s : State) : (storeNonce b s).keyCnt = s.keyCnt := rfl
@[simp] theorem storeNonce_key (b : Block) (s : State) : (storeNonce b s).key = s.key := rfl
@[simp] theorem storeNonce_modelId (b : Block) (s : State) : (storeNonce b s).modelId = s.modelId := rfl
@[simp] theorem storeNonce_readout (b : Block) (s : State) : (storeNonce b s).readout = s.readout := rfl
@[simp] theorem storeNonce_iv (b : Block) (s : State) : (storeNonce b s).iv = s.iv := rfl
@[simp] theorem storeNonce_rTtg (b : Block) (s : State) : (storeNonce b s).rTtg = s.rTtg := rfl
@[simp] theorem storeNonce_rVolt (b : Block) (s : State) : (storeNonce b s).rVolt = s.rVolt := rfl
@[simp] theorem storeNonce_rAlarm (b : Block) (s : State) : (storeNonce b s).rAlarm = s.rAlarm := rfl
@[simp] theorem storeNonce_rAux (b : Block) (s : State) : (storeNonce b s).rAux = s.rAux := rfl
@[simp] theorem storeNonce_rCurr (b : Block) (s : State) : (storeNonce b s).rCurr = s.rCurr := rfl
@[simp] theorem storeNonce_rCons (b : Block) (s : State) : (storeNonce b s).rCons = s.rCons := rfl
@[simp] theorem storeNonce_rSoc (b : Block) (s : State) : (storeNonce b s).rSoc = s.rSoc := rfl
@[simp] theorem storeNonce_pbuf (b : Block) (s : State) : (storeNonce b s).pbuf = s.pbuf := rfl
@[simp] theorem storeNonce_nonce (b : Block) (s : State) : (storeNonce b s).nonce = b := rfl
@[simp] theorem storeNonce_obuf (b : Block) (s : State) : (storeNonce b s).obuf = s.obuf := rfl
@[simp] theorem storeNonce_pvalid (b : Block) (s : State) : (storeNonce b s).pvalid = s.pvalid := rfl
@[simp] theorem storeNonce_nvalid (b : Block) (s : State) : (storeNonce b s).nvalid = s.nvalid := rfl
@[simp] theorem storeNonce_ovalid (b : Block) (s : State) : (storeNonce b s).ovalid = s.ovalid := rfl
@[simp] theorem storeNonce_ctr (b : Block) (s : State) : (storeNonce b s).ctr = s.ctr := rfl
@[simp] theorem storeNonce_ks (b : Block) (s : State) : (storeNonce b s).ks = s.ks := rfl
@[simp] theorem storeNonce_pending (b : Block) (s : State) : (storeNonce b s).pending = s.pending := rfl
@[simp] theorem storeNonce_readData (b : Block) (s : State) : (storeNonce b s).readData = s.readData := rfl

/-! `runCipher` (R141) -/

@[simp] theorem runCipher_err (enc : Block → Block → Block) (s : State) : (runCipher enc s).err = s.err := rfl
@[simp] theorem runCipher_rfield (enc : Block → Block → Block) (s : State) : (runCipher enc s).rfield = s.rfield := rfl
@[simp] theorem runCipher_keyCnt (enc : Block → Block → Block) (s : State) : (runCipher enc s).keyCnt = s.keyCnt := rfl
@[simp] theorem runCipher_key (enc : Block → Block → Block) (s : State) : (runCipher enc s).key = s.key := rfl
@[simp] theorem runCipher_modelId (enc : Block → Block → Block) (s : State) : (runCipher enc s).modelId = s.modelId := rfl
@[simp] theorem runCipher_readout (enc : Block → Block → Block) (s : State) : (runCipher enc s).readout = s.readout := rfl
@[simp] theorem runCipher_iv (enc : Block → Block → Block) (s : State) : (runCipher enc s).iv = s.iv := rfl
@[simp] theorem runCipher_rTtg (enc : Block → Block → Block) (s : State) : (runCipher enc s).rTtg = s.rTtg := rfl
@[simp] theorem runCipher_rVolt (enc : Block → Block → Block) (s : State) : (runCipher enc s).rVolt = s.rVolt := rfl
@[simp] theorem runCipher_rAlarm (enc : Block → Block → Block) (s : State) : (runCipher enc s).rAlarm = s.rAlarm := rfl
@[simp] theorem runCipher_rAux (enc : Block → Block → Block) (s : State) : (runCipher enc s).rAux = s.rAux := rfl
@[simp] theorem runCipher_rCurr (enc : Block → Block → Block) (s : State) : (runCipher enc s).rCurr = s.rCurr := rfl
@[simp] theorem runCipher_rCons (enc : Block → Block → Block) (s : State) : (runCipher enc s).rCons = s.rCons := rfl
@[simp] theorem runCipher_rSoc (enc : Block → Block → Block) (s : State) : (runCipher enc s).rSoc = s.rSoc := rfl
@[simp] theorem runCipher_pbuf (enc : Block → Block → Block) (s : State) : (runCipher enc s).pbuf = s.pbuf := rfl
@[simp] theorem runCipher_nonce (enc : Block → Block → Block) (s : State) : (runCipher enc s).nonce = s.nonce := rfl
@[simp] theorem runCipher_obuf (enc : Block → Block → Block) (s : State) : (runCipher enc s).obuf = xorPayload s.pbuf (enc s.key s.nonce) := rfl
@[simp] theorem runCipher_pvalid (enc : Block → Block → Block) (s : State) : (runCipher enc s).pvalid = s.pvalid := rfl
@[simp] theorem runCipher_nvalid (enc : Block → Block → Block) (s : State) : (runCipher enc s).nvalid = s.nvalid := rfl
@[simp] theorem runCipher_ovalid (enc : Block → Block → Block) (s : State) : (runCipher enc s).ovalid = s.ovalid := rfl
@[simp] theorem runCipher_ctr (enc : Block → Block → Block) (s : State) : (runCipher enc s).ctr = s.nonce := rfl
@[simp] theorem runCipher_ks (enc : Block → Block → Block) (s : State) : (runCipher enc s).ks = enc s.key s.nonce := rfl
@[simp] theorem runCipher_pending (enc : Block → Block → Block) (s : State) : (runCipher enc s).pending = s.pending := rfl
@[simp] theorem runCipher_readData (enc : Block → Block → Block) (s : State) : (runCipher enc s).readData = s.readData := rfl

/-! `deliver` (R20) -/

@[simp] theorem deliver_err (rest : List HostEvent) (b : Option Byte) (s : State) : (deliver rest b s).err = s.err := rfl
@[simp] theorem deliver_rfield (rest : List HostEvent) (b : Option Byte) (s : State) : (deliver rest b s).rfield = s.rfield := rfl
@[simp] theorem deliver_keyCnt (rest : List HostEvent) (b : Option Byte) (s : State) : (deliver rest b s).keyCnt = s.keyCnt := rfl
@[simp] theorem deliver_key (rest : List HostEvent) (b : Option Byte) (s : State) : (deliver rest b s).key = s.key := rfl
@[simp] theorem deliver_modelId (rest : List HostEvent) (b : Option Byte) (s : State) : (deliver rest b s).modelId = s.modelId := rfl
@[simp] theorem deliver_readout (rest : List HostEvent) (b : Option Byte) (s : State) : (deliver rest b s).readout = s.readout := rfl
@[simp] theorem deliver_iv (rest : List HostEvent) (b : Option Byte) (s : State) : (deliver rest b s).iv = s.iv := rfl
@[simp] theorem deliver_rTtg (rest : List HostEvent) (b : Option Byte) (s : State) : (deliver rest b s).rTtg = s.rTtg := rfl
@[simp] theorem deliver_rVolt (rest : List HostEvent) (b : Option Byte) (s : State) : (deliver rest b s).rVolt = s.rVolt := rfl
@[simp] theorem deliver_rAlarm (rest : List HostEvent) (b : Option Byte) (s : State) : (deliver rest b s).rAlarm = s.rAlarm := rfl
@[simp] theorem deliver_rAux (rest : List HostEvent) (b : Option Byte) (s : State) : (deliver rest b s).rAux = s.rAux := rfl
@[simp] theorem deliver_rCurr (rest : List HostEvent) (b : Option Byte) (s : State) : (deliver rest b s).rCurr = s.rCurr := rfl
@[simp] theorem deliver_rCons (rest : List HostEvent) (b : Option Byte) (s : State) : (deliver rest b s).rCons = s.rCons := rfl
@[simp] theorem deliver_rSoc (rest : List HostEvent) (b : Option Byte) (s : State) : (deliver rest b s).rSoc = s.rSoc := rfl
@[simp] theorem deliver_pbuf (rest : List HostEvent) (b : Option Byte) (s : State) : (deliver rest b s).pbuf = s.pbuf := rfl
@[simp] theorem deliver_nonce (rest : List HostEvent) (b : Option Byte) (s : State) : (deliver rest b s).nonce = s.nonce := rfl
@[simp] theorem deliver_obuf (rest : List HostEvent) (b : Option Byte) (s : State) : (deliver rest b s).obuf = s.obuf := rfl
@[simp] theorem deliver_pvalid (rest : List HostEvent) (b : Option Byte) (s : State) : (deliver rest b s).pvalid = s.pvalid := rfl
@[simp] theorem deliver_nvalid (rest : List HostEvent) (b : Option Byte) (s : State) : (deliver rest b s).nvalid = s.nvalid := rfl
@[simp] theorem deliver_ovalid (rest : List HostEvent) (b : Option Byte) (s : State) : (deliver rest b s).ovalid = s.ovalid := rfl
@[simp] theorem deliver_ctr (rest : List HostEvent) (b : Option Byte) (s : State) : (deliver rest b s).ctr = s.ctr := rfl
@[simp] theorem deliver_ks (rest : List HostEvent) (b : Option Byte) (s : State) : (deliver rest b s).ks = s.ks := rfl
@[simp] theorem deliver_pending (rest : List HostEvent) (b : Option Byte) (s : State) : (deliver rest b s).pending = rest := rfl
@[simp] theorem deliver_readData (rest : List HostEvent) (b : Option Byte) (s : State) : (deliver rest b s).readData = b := rfl

end Sys2Proof.Machine
end

