-- ==== Sys2Proof/Laws/Ops.lean ====
section
/-!
SUPPORT. What each shared operation can do, said once: the flag bytes, the bytes of a register, the address map, the write of
one byte, the key port, the meanings and the step.
-/

namespace Sys2Proof.Machine

/-! ## Flag bytes -/

theorem flagBit_getLsbD (b : Bool) (i j : Nat) (hi : i < 8) : (flagBit b i).getLsbD j = (b && decide (i = j)) := by
  cases b
  · simp [flagBit]
  · rcases Nat.lt_trichotomy i j with h | rfl | h
    · have : j - i ≠ 0 := by omega
      have h' : i ≠ j := by omega
      simp [flagBit, h', BitVec.getLsbD_one, this]
    · simp [flagBit, hi]
    · have h' : i ≠ j := by omega
      simp [flagBit, h, h']

/-- R31: which condition each bit of the `ERR` byte reports. -/
theorem errByte_bits (r k w q c : Bool) :
    (errByte r k w q c).getLsbD 0 = r ∧ (errByte r k w q c).getLsbD 1 = k ∧ (errByte r k w q c).getLsbD 2 = w
      ∧ (errByte r k w q c).getLsbD 3 = q ∧ (errByte r k w q c).getLsbD 4 = c ∧ errByte r k w q c &&& 0xE0 = 0 := by
  revert r k w q c; decide

/-- R196: a command is fatal when any cause but the warning arose. -/
theorem isFatal_errByte (r k w q c : Bool) : isFatal (errByte r k w q c) = (r || k || q || c) := by
  revert r k w q c; decide

theorem errByte_and_one (r k w q c : Bool) : errByte r k w q c &&& 0x01 = 0 ↔ r = false := by
  revert r k w q c; decide

theorem errByte_and_three (r k w q c : Bool) : errByte r k w q c &&& 0x03 = 0 ↔ r = false ∧ k = false := by
  revert r k w q c; decide

/-- R32: bit `k` of `RFIELD` says that lane `k` failed. -/
theorem rangeMask_getLsbD (v : Fin 7 → Int) (k : Fin 7) : (rangeMask v).getLsbD k = !laneFits k (v k) := by
  fin_cases k <;>
    simp (disch := decide) only [rangeMask, BitVec.getLsbD_or, flagBit_getLsbD] <;> simp

theorem anyFail_eq_false (v : Fin 7 → Int) : anyFail v = false ↔ ∀ k, laneFits k (v k) = true := by
  simp [anyFail, Fin.forall_fin_succ, and_assoc]

/-- R32: `RFIELD` is 0 exactly when no lane failed. -/
theorem rangeMask_eq_zero (v : Fin 7 → Int) : rangeMask v = 0 ↔ anyFail v = false := by
  rw [anyFail_eq_false]
  constructor
  · intro h k
    have := rangeMask_getLsbD v k
    rw [h] at this
    simpa using this
  · intro h
    simp [rangeMask, h, flagBit]

/-- R85: an integer field always passes. -/
theorem laneFits_integer (k : Fin 7) (h : (fieldDesc k).scaled = false) (s : State) :
    laneFits k (fieldValues s k) = true := by
  fin_cases k <;> first | (exact absurd h (by decide)) | skip
  · have := s.rTtg.isLt
    simp [fieldValues, laneValue, laneFits, fitsU, fieldDesc, fieldReg]; omega
  · have := s.rAlarm.isLt
    simp [fieldValues, laneValue, laneFits, fitsU, fieldDesc, fieldReg]; omega

/-! ## The bytes of a register (R61, R62) -/

theorem getLsbD_byteOf {w : Nat} (r : BitVec w) (i j : Nat) :
    (byteOf r i).getLsbD j = (decide (j < 8) && r.getLsbD (8 * i + j)) := by
  simp [byteOf]

/-- R62: a byte write replaces exactly that byte. -/
theorem byteOf_setByteOf {w : Nat} (r : BitVec w) (i j : Nat) (v : Byte) (hi : 8 * i + 8 ≤ w) :
    byteOf (setByteOf r i v) j = if j = i then v else byteOf r j := by
  apply BitVec.eq_of_getLsbD_eq
  intro b hb
  have hff : ∀ n, (255#8).getLsbD n = decide (n < 8) := by
    intro n
    by_cases hn : n < 8
    · interval_cases n <;> rfl
    · simp [hn]
      exact BitVec.getLsbD_of_ge _ _ (by omega)
  rw [getLsbD_byteOf]
  simp only [setByteOf, BitVec.getLsbD_or, BitVec.getLsbD_and, BitVec.getLsbD_not, BitVec.getLsbD_shiftLeft, BitVec.getLsbD_setWidth, hff]
  by_cases hji : j = i
  · subst hji
    have e : 8 * j + b - 8 * j = b := by omega
    simp [hb, e, show 8 * j + b < w by omega, show b < w by omega]
  · rw [if_neg hji, getLsbD_byteOf]
    by_cases hlt : 8 * j + b < 8 * i
    · simp [hb, hlt, show 8 * j + b < w by omega]
    · have h2 : ¬ (8 * j + b - 8 * i < 8) := by omega
      have h3 : v.getLsbD (8 * j + b - 8 * i) = false := BitVec.getLsbD_of_ge _ _ (by omega)
      by_cases hw : 8 * j + b < w
      · simp [hb, hlt, h2, h3, hw]
      · simp [hw, BitVec.getLsbD_of_ge r _ (Nat.le_of_not_lt hw)]

/-- A register is determined by its bytes. -/
theorem eq_of_byteOf {w : Nat} (r t : BitVec w) (n : Nat) (hw : w = 8 * n) (h : ∀ i, i < n → byteOf r i = byteOf t i) : r = t := by
  apply BitVec.eq_of_getLsbD_eq
  intro b hb
  have := congrArg (·.getLsbD (b % 8)) (h (b / 8) (by omega))
  simp only [getLsbD_byteOf, show b % 8 < 8 by omega, decide_true, Bool.true_and, show 8 * (b / 8) + b % 8 = b by omega] at this
  exact this

/-! ## The address map (R21, R65) -/

theorem forall_addr {P : Addr → Prop} (h : ∀ n, n < 128 → P (BitVec.ofNat 7 n)) (a : Addr) : P a := by
  have := h a.toNat a.isLt
  simpa using this

theorem locate_eq_cmd (a : Addr) : locate a = .cmd ↔ a = 0x00 := by
  revert a; exact forall_addr (by decide)

theorem locate_eq_keyin (a : Addr) : locate a = .keyin ↔ a = 0x04 := by
  revert a; exact forall_addr (by decide)

@[simp] theorem locate_zero : locate 0#7 = .cmd := by decide

theorem locate_pbuf (i : Fin 15) : locate (BitVec.ofNat 7 (0x30 + i)) = .pbuf i := by
  revert i; decide

theorem addr_of_locate_pbuf (a : Addr) (i : Fin 15) (h : locate a = .pbuf i) : a = BitVec.ofNat 7 (0x30 + i) := by
  revert a i; refine forall_addr ?_; decide

theorem locate_nonce (i : Fin 16) : locate (BitVec.ofNat 7 (0x40 + i)) = .nonce i := by
  revert i; decide

theorem locate_out (i : Fin 21) : locate (BitVec.ofNat 7 (0x50 + i)) = .out i := by
  revert i; decide

/-- R21: the address of a location (0x07 stands for the reserved ones). -/
def locAddr : Loc → Nat
  | .cmd => 0x00
  | .status => 0x01
  | .err => 0x02
  | .rfield => 0x03
  | .keyin => 0x04
  | .keycnt => 0x05
  | .rectype => 0x06
  | .modelid i => 0x08 + i
  | .readout => 0x0A
  | .iv i => 0x0C + i
  | .ttg i => 0x10 + i
  | .volt i => 0x14 + i
  | .alarm i => 0x18 + i
  | .aux i => 0x1C + i
  | .curr i => 0x20 + i
  | .cons i => 0x24 + i
  | .soc i => 0x28 + i
  | .pbuf i => 0x30 + i
  | .nonce i => 0x40 + i
  | .out i => 0x50 + i
  | .reserved => 0x07

theorem locAddr_locate (a : Addr) (h : locate a ≠ .reserved) : BitVec.ofNat 7 (locAddr (locate a)) = a := by
  revert a; exact forall_addr (by decide)

theorem locate_injective (a b : Addr) (h : locate a = locate b) (hr : locate a ≠ .reserved) : a = b := by
  rw [← locAddr_locate a hr, h, locAddr_locate b (h ▸ hr)]

/-! ## The meanings -/

theorem exec_pack (s : State) : exec .pack s = .next (packState s) := rfl
theorem exec_nonce (s : State) : exec .nonce s = .next (nonceState s) := rfl
theorem exec_crypt (s : State) : exec .crypt s = .next (cryptState Config.blockEnc s) := rfl
theorem exec_encode (s : State) : exec .encode s = .next (encodeState Config.blockEnc s) := rfl
theorem exec_keyclr (s : State) : exec .keyclr s = .next (keyclrState s) := rfl
theorem exec_srst (s : State) : exec .srst s = .next (srstState s) := rfl

theorem next_inj {s t : State} : (Host.Outcome.next s : Host.Outcome State Fault Refusal) = .next t ↔ s = t :=
  ⟨fun h => by injection h, fun h => by rw [h]⟩

/-- R115: what `PACK` can do. -/
theorem packState_cases (s : State) :
    (anyFail (fieldValues s) = true ∧ packState s = raiseError (errByte true false (socWarn (fieldValues s)) false false)
      (rangeMask (fieldValues s)) true false true s)
    ∨ (anyFail (fieldValues s) = false ∧ packState s = setFlags true s.nvalid false (storePayload (payloadOf (fieldValues s))
      (report (errByte false false (socWarn (fieldValues s)) false false) 0 s))) := by
  unfold packState
  cases h : anyFail (fieldValues s)
  · right; simp [h, (rangeMask_eq_zero _).2 h]
  · left; simp [h]

/-- R145: what `CRYPT` can do. -/
theorem cryptState_cases (enc : Block → Block → Block) (s : State) :
    ((keyOk s && s.pvalid && s.nvalid) = false ∧ cryptState enc s = raiseError (errByte false (!keyOk s) false (!(s.pvalid && s.nvalid)) false)
      0 false false true s)
    ∨ (keyOk s = true ∧ s.pvalid = true ∧ s.nvalid = true ∧ cryptState enc s = setFlags true false true (runCipher enc (report 0 0 s))) := by
  unfold cryptState
  simp only [isFatal_errByte]
  cases hk : keyOk s <;> cases hp : s.pvalid <;> cases hn : s.nvalid <;> simp
  rfl

/-- R160: what `ENCODE` can do. -/
theorem encodeState_cases (enc : Block → Block → Block) (s : State) :
    ((anyFail (fieldValues s) || !keyOk s) = true ∧ encodeState enc s =
      raiseError (errByte (anyFail (fieldValues s)) (!keyOk s) (socWarn (fieldValues s)) false false) (rangeMask (fieldValues s)) true true true s)
    ∨ (anyFail (fieldValues s) = false ∧ keyOk s = true ∧ encodeState enc s =
      setFlags true false true (runCipher enc (storeNonce (buildNonce s.modelId s.readout s.iv)
        (storePayload (payloadOf (fieldValues s)) (report (errByte false false (socWarn (fieldValues s)) false false) 0 s))))) := by
  unfold encodeState
  simp only [isFatal_errByte]
  cases h : anyFail (fieldValues s) <;> cases hk : keyOk s <;> simp
  simp [(rangeMask_eq_zero _).2 h]

/-- R196: what `PACK` reports. -/
theorem packState_report (s : State) :
    (packState s).err = errByte (anyFail (fieldValues s)) false (socWarn (fieldValues s)) false false
      ∧ (packState s).rfield = rangeMask (fieldValues s) := by
  rcases packState_cases s with ⟨h, h'⟩ | ⟨h, h'⟩ <;> rw [h'] <;> simp [h, (rangeMask_eq_zero (fieldValues s)).2]

/-- R196: what `CRYPT` reports. -/
theorem cryptState_report (enc : Block → Block → Block) (s : State) :
    (cryptState enc s).err = errByte false (!keyOk s) false (!(s.pvalid && s.nvalid)) false ∧ (cryptState enc s).rfield = 0 := by
  rcases cryptState_cases enc s with ⟨h, h'⟩ | ⟨h1, h2, h3, h'⟩ <;> rw [h'] <;> simp [*]
  rfl

/-- R196: what `ENCODE` reports. -/
theorem encodeState_report (enc : Block → Block → Block) (s : State) :
    (encodeState enc s).err = errByte (anyFail (fieldValues s)) (!keyOk s) (socWarn (fieldValues s)) false false
      ∧ (encodeState enc s).rfield = rangeMask (fieldValues s) := by
  rcases encodeState_cases enc s with ⟨h, h'⟩ | ⟨h1, h2, h'⟩ <;> rw [h'] <;>
    simp [*, (rangeMask_eq_zero (fieldValues s)).2]

/-! ## The record window (R40) -/

theorem readWindow_out (s : State) (i : Fin 21) : readWindow s (BitVec.ofNat 7 (0x50 + i)) = outByte s i := by
  unfold readWindow; rw [locate_out]; rfl

/-- R40: `OUT[1..5]` is `NONCE[0..4]`. -/
theorem outByte_nonce (s : State) (i : Fin 5) : outByte s ⟨1 + i, by omega⟩ = s.nonce[i.val] := by
  refine (getElem_record _ _ _ (1 + i.val) (by omega)).trans ?_
  fin_cases i <;> rfl

/-- R40: `OUT[6..20]` is `OBUF[0..14]`. -/
theorem outByte_obuf (s : State) (i : Fin 15) : outByte s ⟨6 + i, by omega⟩ = s.obuf[i] := by
  refine (getElem_record _ _ _ (6 + i.val) (by omega)).trans ?_
  simp

/-! ## The write of one byte -/

/-- What no host write touches. -/
theorem writeWindow_frame (a : Addr) (v : Byte) (s : State) :
    (writeWindow a v s).err = s.err ∧ (writeWindow a v s).rfield = s.rfield ∧ (writeWindow a v s).nonce = s.nonce
      ∧ (writeWindow a v s).obuf = s.obuf ∧ (writeWindow a v s).nvalid = s.nvalid ∧ (writeWindow a v s).ctr = s.ctr
      ∧ (writeWindow a v s).ks = s.ks ∧ (writeWindow a v s).pending = s.pending ∧ (writeWindow a v s).readData = s.readData := by
  unfold writeWindow
  cases locate a <;> simp [writeLoc]
  unfold pushKey; split <;> simp

/-- R35, R172: what a push can do. -/
theorem pushKey_cases (v : Byte) (s : State) :
    (∃ h : s.keyCnt.toNat < 16, pushKey v s = { s with key := s.key.set s.keyCnt.toNat v h, keyCnt := s.keyCnt + 1 })
    ∨ (16 ≤ s.keyCnt.toNat ∧ pushKey v s = { s with keyCnt := 17 }) := by
  unfold pushKey
  split
  · exact .inl ⟨by assumption, rfl⟩
  · exact .inr ⟨by omega, rfl⟩

/-- R171 to R173, R65: what a host write that is no command can do. -/
theorem writeWindow_cases (a : Addr) (v : Byte) (s : State) :
    (a = 0x04 ∧ writeWindow a v s = pushKey v s)
    ∨ (∃ i : Fin 15, a = BitVec.ofNat 7 (0x30 + i)
      ∧ writeWindow a v s = { s with pbuf := s.pbuf.set i v, pvalid := true, ovalid := false })
    ∨ writeWindow a v s = { s with
        modelId := (writeWindow a v s).modelId, readout := (writeWindow a v s).readout, iv := (writeWindow a v s).iv
        rTtg := (writeWindow a v s).rTtg, rVolt := (writeWindow a v s).rVolt, rAlarm := (writeWindow a v s).rAlarm
        rAux := (writeWindow a v s).rAux, rCurr := (writeWindow a v s).rCurr, rCons := (writeWindow a v s).rCons
        rSoc := (writeWindow a v s).rSoc } := by
  cases h : locate a
  case keyin => exact .inl ⟨(locate_eq_keyin a).1 h, by simp [writeWindow, h, writeLoc]⟩
  case pbuf i => exact .inr (.inl ⟨i, addr_of_locate_pbuf a i h, by simp [writeWindow, h, writeLoc]⟩)
  all_goals exact .inr (.inr (by simp [writeWindow, h, writeLoc]))

/-! ## The step -/

/-- R20, R33, R68: what one step can do, one case for each kind of event. -/
theorem step_cases {s t : State} (h : step s = .next t) :
    (s.pending = [] ∧ t = s)
    ∨ (∃ rest, s.pending = .reset :: rest ∧ t = hardwareReset rest)
    ∨ (∃ a rest, s.pending = .read a :: rest ∧ t = deliver rest (some (readWindow s a)) s)
    ∨ (∃ a v rest, s.pending = .write a v :: rest ∧ a ≠ 0x00 ∧ t = writeWindow a v (deliver rest none s))
    ∨ (∃ c i rest, s.pending = .write 0x00 c :: rest ∧ decode c = .ok i ∧ exec i (deliver rest none s) = .next t)
    ∨ (∃ c e rest, s.pending = .write 0x00 c :: rest ∧ decode c = .error e
        ∧ t = raiseError 0x10 0x00 false false false (deliver rest none s)) := by
  unfold step fetch at h
  match hp : s.pending with
  | [] => simp only [hp, next_inj] at h; exact .inl ⟨rfl, h.symm⟩
  | .reset :: rest => simp only [hp, next_inj] at h; exact .inr (.inl ⟨rest, rfl, h.symm⟩)
  | .read a :: rest => simp only [hp, next_inj] at h; exact .inr (.inr (.inl ⟨a, rest, rfl, h.symm⟩))
  | .write a v :: rest =>
    simp only [hp] at h
    by_cases ha : locate a = .cmd
    · simp only [ha, if_true] at h
      obtain rfl := (locate_eq_cmd a).1 ha
      cases hd : decode v with
      | ok i =>
        simp only [hd] at h
        exact .inr (.inr (.inr (.inr (.inl ⟨v, i, rest, rfl, hd, h⟩))))
      | error e =>
        simp only [hd, illegalCommand, next_inj] at h
        exact .inr (.inr (.inr (.inr (.inr ⟨v, e, rest, rfl, hd, h.symm⟩))))
    · simp only [ha, if_false, next_inj] at h
      exact .inr (.inr (.inr (.inl ⟨a, v, rest, rfl, fun h0 => ha ((locate_eq_cmd a).2 h0), h.symm⟩)))

end Sys2Proof.Machine
end

