-- ==== Sys2Proof/Laws/PerInstr.lean ====
section
/-!
SUPPORT. The statement made per instruction: each command's code is a byte the decoder reads as that command (R80, R81).
-/

namespace Sys2Proof.Laws.CodeMatchesTable

/-- R81: the code of the command decodes to it, and lies among the seven defined codes. -/
def Statement (i : Instr) : Prop := decode (encode i) = .ok i ∧ (encode i).toNat < 7

theorem nop : Statement .nop := ⟨rfl, by decide⟩
theorem pack : Statement .pack := ⟨rfl, by decide⟩
theorem nonce : Statement .nonce := ⟨rfl, by decide⟩
theorem crypt : Statement .crypt := ⟨rfl, by decide⟩
theorem encode : Statement .encode := ⟨rfl, by decide⟩
theorem keyclr : Statement .keyclr := ⟨rfl, by decide⟩
theorem srst : Statement .srst := ⟨rfl, by decide⟩

end Sys2Proof.Laws.CodeMatchesTable
end

