-- ==== Sys2Proof/Laws/Run.lean ====
section
/-!
SUPPORT. Several steps one after another, and the record window by address.
-/

namespace Sys2Proof.Safety

open Sys2Proof.Machine

@[simp] theorem after_zero (s : State) : after 0 s = .next s := rfl

/-- One step more, where the first has a next state. -/
theorem after_succ {s t : State} (n : Nat) (h : step s = .next t) : after (n + 1) s = after n t := by
  have h' : Host.Core.step core s = .next t := h
  simp only [after, Host.Core.run, h']
  rfl

/-- R40: `OUT[1..5]` by address. -/
theorem readWindow_header (s : State) (i : Fin 5) : readWindow s (addr 0x51 i) = s.nonce[i.val] := by
  have e : addr 0x51 i = BitVec.ofNat 7 (0x50 + (⟨1 + i, by omega⟩ : Fin 21).val) := by simp only [addr]; congr 1; omega
  rw [e, readWindow_out, outByte_nonce]

/-- R40: `OUT[6..20]` by address. -/
theorem readWindow_obuf (s : State) (i : Fin 15) : readWindow s (addr 0x56 i) = s.obuf[i] := by
  have e : addr 0x56 i = BitVec.ofNat 7 (0x50 + (⟨6 + i, by omega⟩ : Fin 21).val) := by simp only [addr]; congr 1; omega
  rw [e, readWindow_out, outByte_obuf]

end Sys2Proof.Safety
end

