-- ==== Sys2Proof/Tests/Slice0.lean ====
section
/-!
SUPPORT. The model's own tests, each on fixed values, expected results from spec/95_test_vectors.md or from the rule named. Then
one witness per obligation that has hypotheses: a concrete state and operands that meet them together.
-/

namespace Sys2Proof.Tests

open Sys2Proof Sys2Proof.Machine Sys2Proof.Safety

/-! ## Small states -/

/-- The key of the source's scenario. -/
def key0 : Block := #v[0x01, 0x02, 0x03, 0x04, 0x05, 0x06, 0x07, 0x08, 0x09, 0x0A, 0x0B, 0x0C, 0x0D, 0x0E, 0x0F, 0x10]

/-- `E_id` of 95_test_vectors.md. -/
def eId : Block → Block → Block := fun _ x => x

/-- `E_xor` of 95_test_vectors.md. -/
def eXor : Block → Block → Block := fun k x => Vector.ofFn fun i => k[i] ^^^ x[i]

/-- Vector S2: the readings and the header of the source's scenario, the key loaded. -/
def s2 : State :=
  { State.reset with
    key := key0, keyCnt := 16, modelId := 0xA389, readout := 0x02, iv := 0x1234, rTtg := 0x0078, rVolt := 0x000C8000
    rCurr := 0xFFFEC000, rCons := 0x000F0000, rSoc := 0x00558000 }

/-- Vector F6, with the header of N6. -/
def f6 : State :=
  { State.reset with
    key := key0, keyCnt := 16, modelId := 0x1234, readout := 0x56, iv := 0x789A, rTtg := 0x059F, rVolt := 0x000D4000
    rAlarm := 0x0003, rAux := 0x000CC000, rCurr := 0x00198000, rCons := 0xFFD58000, rSoc := 0x00638000 }

/-- Vector E1: voltage, current and consumed charge out of range, state of charge above 14 bits; no key. -/
def e1 : State :=
  { State.reset with rVolt := 0x01900000, rCurr := 0x23280000, rCons := 0xF0600000, rSoc := 0x07D00000 }

/-- Vector B22 and X10: a state of charge above 14 bits, the key loaded. -/
def warn : State := { State.reset with key := key0, keyCnt := 16, rSoc := 0x07D00000 }

/-- Payload and nonce of S2 valid and armed. -/
def armed : State := nonceState (packState s2)

/-- The state with one event at the port. -/
def sees (e : HostEvent) (s : State) : State := { s with pending := [e] }

/-! ## Decoding: the bytes of R80 -/

theorem test_decode_nop : decode 0b00000000#8 = .ok .nop := by decide
theorem test_decode_pack : decode 0b00000001#8 = .ok .pack := by decide
theorem test_decode_nonce : decode 0b00000010#8 = .ok .nonce := by decide
theorem test_decode_crypt : decode 0b00000011#8 = .ok .crypt := by decide
theorem test_decode_encode : decode 0b00000100#8 = .ok .encode := by decide
theorem test_decode_keyclr : decode 0b00000101#8 = .ok .keyclr := by decide
theorem test_decode_srst : decode 0b00000110#8 = .ok .srst := by decide
theorem test_decode_illegal : decode 0b00000111#8 = .error (.illegalCommand 7) ∧ decode 0b10000001#8 = .error (.illegalCommand 0x81) := by
  decide
theorem test_table_words : decodeTableWord 8 0x04 = some .encode ∧ decodeTableWord 8 0xFF = none := by decide

/-! ## Legal lines (R97): an ill-formed term for each check -/

theorem test_wf_w_address : HostLine.wellFormed (.w (.num 128) 0) = false := by decide
theorem test_wf_w_data : HostLine.wellFormed (.w (.num 0) 256) = false := by decide
theorem test_wf_w_legal : HostLine.wellFormed (.w (.num 127) 255) = true := by decide
theorem test_wf_r_address : HostLine.wellFormed (.r (.reg .OUT 48) none) = false := by decide
theorem test_wf_w16_address : HostLine.wellFormed (.w16 (.num 127) 0) = false := by decide
/-- DESIGN CHOICE (log 11), as is `test_wf_w32_data`. -/
theorem test_wf_w16_data : HostLine.wellFormed (.w16 (.reg .MODELID 0) 65536) = false := by decide
theorem test_wf_w32_address : HostLine.wellFormed (.w32 (.num 125) 0) = false := by decide
theorem test_wf_w32_data : HostLine.wellFormed (.w32 (.reg .R_SOC 0) 4294967296) = false := by decide
theorem test_wf_wq_address : HostLine.wellFormed (.wq (.num 125) { mantissa := 0, places := 0 }) = false := by decide
/-- R97: 12.34 is not a multiple of 1/65536. -/
theorem test_wf_wq_inexact : HostLine.wellFormed (.wq (.reg .R_VOLT 0) { mantissa := 1234, places := 2 }) = false := by decide
theorem test_wf_wq_legal : HostLine.wellFormed (.wq (.reg .R_CURR 0) { mantissa := -125, places := 2 }) = true := by decide
/-- DESIGN CHOICE (log 9): 40000 is an integer times 1/65536, so the line is legal though Q16.16 has no 40000. -/
theorem test_wf_wq_out_of_range : HostLine.wellFormed (.wq (.reg .R_VOLT 0) { mantissa := 40000, places := 0 }) = true := by decide
/-- DESIGN CHOICE (log 10): `MODELID+5` and a plain address are legal. -/
theorem test_wf_past_the_register : HostLine.wellFormed (.w (.reg .MODELID 5) 0) = true
    ∧ HostLine.wellFormed (.w16 (.num 0x08) 0x1234) = true := by decide
theorem test_wf_wbuf_length : HostLine.wellFormed (.wbuf (List.replicate 14 0)) = false := by decide
/-- DESIGN CHOICE (log 12): an `RBUF` of no bytes is legal; R97: its target is an address of the window all the same. -/
theorem test_wf_rbuf_no_bytes : HostLine.wellFormed (.rbuf (.reg .OUT 0) 0) = true
    ∧ HostLine.wellFormed (.rbuf (.reg .OUT 48) 0) = false ∧ expandLine (.rbuf (.reg .OUT 0) 0) = [] := by decide
theorem test_wf_rbuf_address : HostLine.wellFormed (.rbuf (.reg .OUT 6) 43) = false := by decide

/-- P1: `WQ R_CURR, -1.25`. -/
theorem test_expand_wq : expandLine (.wq (.reg .R_CURR 0) { mantissa := -125, places := 2 })
    = [.write 0x20 0x00, .write 0x21 0xC0, .write 0x22 0xFE, .write 0x23 0xFF] := by decide
/-- P2: `W16 MODELID, 0x1234` and `CMD SRST`. -/
theorem test_expand_w16 : expandLine (.w16 (.reg .MODELID 0) 0x1234) ++ expandLine (.cmd .srst)
    = [.write 0x08 0x34, .write 0x09 0x12, .write 0x00 0x06] := by decide

/-! ## Arithmetic: parts Q, T, B and C of 95_test_vectors.md -/

/-- T1, T3, T5, T8, T10 under both tie rules. -/
theorem test_ties : quant 0x00002000 100 = 12 ∧ quantWith .halfAwayFromZero 0x00002000 100 = 13
    ∧ quant 0xFFFFE000 100 = -12 ∧ quantWith .halfAwayFromZero 0xFFFFE000 100 = -13
    ∧ quant 0x00001000 1000 = 62 ∧ quant 0xFFFFC000 10 = -2 ∧ quant 0x0000C000 10 = 8 := by decide

/-- B10, B11, B18, B24: one past an end point fails, the end point passes. -/
theorem test_range_ends : fitsS (quant 0xDF3B6439 1000) 24 = false ∧ fitsS (quant 0x20C49B85 1000) 24 = true
    ∧ fitsU (quant 0xFFFFF333 10) 16 = false ∧ fitsU (quant 0x19998CCD 10) 16 = false := by decide

/-- R86: the 24-bit encoding of -1250, and back. -/
theorem test_signed24 : packS24 (-1250) = #v[0x1E, 0xFB, 0xFF] ∧ unpackS24 #v[0x1E, 0xFB, 0xFF] = -1250 := by decide

/-- C3, C4. -/
theorem test_ctrInc : ctrInc #v[0, 0, 0, 0, 0, 0, 0, 0, 0xFF, 0xFF, 0xFF, 0xFF, 0xFF, 0xFF, 0xFF, 0xFF]
      = #v[0, 0, 0, 0, 0, 0, 0, 1, 0, 0, 0, 0, 0, 0, 0, 0]
    ∧ ctrInc (Vector.replicate 16 0xFF) = Vector.replicate 16 0 := by decide

/-- C10: byte 16 meets the second counter block. -/
theorem test_ctrXor_17 : ctrXor eId ctrInc key0 #v[0x89, 0xA3, 0x02, 0x34, 0x12, 0, 0, 0, 0, 0, 0, 0, 0, 0, 0, 0]
      [0, 1, 2, 3, 4, 5, 6, 7, 8, 9, 10, 11, 12, 13, 14, 15, 16]
    = [0x89, 0xA2, 0x00, 0x37, 0x16, 0x05, 0x06, 0x07, 0x08, 0x09, 0x0A, 0x0B, 0x0C, 0x0D, 0x0E, 0x0F, 0x99] := by decide

/-! ## Commands -/

/-- F6. -/
theorem test_pack_F6 : (packState f6).pbuf
      = #v[0x9F, 0x05, 0x2D, 0x05, 0x03, 0x00, 0xFB, 0x04, 0x9C, 0x63, 0x00, 0x57, 0xFE, 0xE3, 0x03]
    ∧ (packState f6).err = 0x00 ∧ (packState f6).pvalid = true := by decide

/-- E1. -/
theorem test_pack_E1 : (packState e1).err = 0x05 ∧ (packState e1).rfield = 0x32 ∧ (packState e1).pbuf = e1.pbuf := by decide

/-- N2. -/
theorem test_nonce_N2 : (nonceState s2).nonce = #v[0x89, 0xA3, 0x02, 0x34, 0x12, 0, 0, 0, 0, 0, 0, 0, 0, 0, 0, 0] := by decide

/-- K1 and K2. -/
theorem test_crypt_K1_K2 : (cryptState eId armed).obuf
      = #v[0xF1, 0xA3, 0xE0, 0x30, 0x12, 0x00, 0x00, 0x00, 0x1E, 0xFB, 0xFF, 0x96, 0x00, 0x57, 0x03]
    ∧ (cryptState eXor armed).obuf
      = #v[0xF0, 0xA1, 0xE3, 0x34, 0x17, 0x06, 0x07, 0x08, 0x17, 0xF1, 0xF4, 0x9A, 0x0D, 0x59, 0x0C]
    ∧ statusByte (cryptState eId armed) = 0x0B := by decide

/-- X1, and X2's last command. -/
theorem test_crypt_errors : (cryptState eId State.reset).err = 0x0A
    ∧ (cryptState eId (nonceState (packState State.reset))).err = 0x02
    ∧ statusByte (cryptState eId (nonceState (packState State.reset))) = 0x06 := by decide

/-- The example of R160 (P1's end state). -/
theorem test_encode_P1 : (encodeState eId s2).obuf
      = #v[0xF1, 0xA3, 0xE0, 0x30, 0x12, 0x00, 0x00, 0x00, 0x1E, 0xFB, 0xFF, 0x96, 0x00, 0x57, 0x03]
    ∧ statusByte (encodeState eId s2) = 0x0B ∧ (encodeState eId s2).err = 0x00 := by decide

/-- X5, X10. -/
theorem test_encode_errors : (encodeState eId e1).err = 0x07 ∧ (encodeState eId e1).rfield = 0x32
    ∧ (encodeState eId warn).err = 0x04 ∧ statusByte (encodeState eId warn) = 0x0B := by decide

/-- G4, G9. -/
theorem test_keyclr_srst : statusByte (keyclrState (encodeState eId s2)) = 0x0A
    ∧ statusByte (srstState (encodeState eId s2)) = 0x01 ∧ (srstState (encodeState eId s2)).obuf = Vector.replicate 15 0 := by
  decide

/-! ## Host accesses and the step -/

/-- G1: a write of the same byte to `PBUF[0]` still clears `OVALID`. -/
theorem test_write_pbuf : statusByte (writeWindow 0x30 0x78 (encodeState eId s2)) = 0x03 := by decide

/-- G10: a seventeenth key byte. -/
theorem test_write_keyin : (writeWindow 0x04 0x55 s2).keyCnt = 17 ∧ (writeWindow 0x04 0x55 s2).key = key0 := by decide

/-- R61, G7: the high byte of `MODELID`. -/
theorem test_write_modelid : (writeWindow 0x09 0xFF s2).modelId = 0xFF89 ∧ readWindow s2 0x08 = 0x89 := by decide

/-- X11: an illegal code through the step. -/
theorem test_step_illegal : step (sees (.write 0x00 0x80) s2) = .next { s2 with err := 0x10 } := rfl

/-- R175 through the step. -/
theorem test_step_keyclr :
    step (sees (.write 0x00 0x05) s2) = .next { s2 with key := Vector.replicate 16 0, keyCnt := 0 } := rfl

/-- X4: the command placed by `withFetchWord` is the next thing the step runs. -/
theorem test_withFetchWord : step (State.reset.withFetchWord 8 0x04) = .next { State.reset with err := 0x02 } := rfl

/-! ## Witnesses: for each obligation with hypotheses, operands that meet them -/

theorem witness_CommandWriteExecutes :
    (sees (.write 0x00 0x06) s2).pending = .write 0x00 0x06 :: [] ∧ decode 0x06 = .ok .srst
      ∧ (sees (.read 0x00) s2).pending = .read 0x00 :: [] := by decide

theorem witness_IllegalCommandReports :
    (sees (.write 0x00 0x07) s2).pending = .write 0x00 0x07 :: [] ∧ 0x07 ≤ (0x07 : Byte).toNat
      ∧ (sees (.write 0x00 0xFF) s2).pending = .write 0x00 0xFF :: [] ∧ 0x07 ≤ (0xFF : Byte).toNat := by decide

theorem witness_IdleHoldsTheState : s2.pending = [] := by decide

/-- R112: `t = -98304` and `t = -32768`, and a remainder on either side of the half. -/
theorem witness_RoundingByQuotientAndRemainder :
    ((-98304 : Int) = -2 * 2 ^ 16 + 32768 ∧ (0 : Int) ≤ 32768 ∧ (32768 : Int) < 2 ^ 16 ∧ (32768 : Int) = 2 ^ (16 - 1)
        ∧ Even (-2 : Int) ∧ (-98304 : Int) < 0)
      ∧ ((98304 : Int) = 1 * 2 ^ 16 + 32768 ∧ Odd (1 : Int) ∧ (0 : Int) ≤ 98304)
      ∧ ((65535 : Int) = 0 * 2 ^ 16 + 65535 ∧ (2 : Int) ^ (16 - 1) < 65535)
      ∧ ((32767 : Int) = 0 * 2 ^ 16 + 32767 ∧ (32767 : Int) < 2 ^ (16 - 1)) := by decide

theorem witness_RoundingIsNearestTiesToEven : 1 ≤ 1 ∧ 2 * |(1 : Int) - rne 1 1 * 2 ^ 1| = 2 ^ 1 := by decide

theorem witness_QuantizationErrorAtMostHalf :
    (fieldDesc 1).scaled = true ∧ (fieldDesc 3).scaled = true ∧ (fieldDesc 4).scaled = true ∧ (fieldDesc 5).scaled = true
      ∧ (fieldDesc 6).scaled = true := by decide

theorem witness_QuantizationIsMonotone : (0x80000000#32).toInt ≤ (0x7FFFFFFF#32).toInt := by decide

theorem witness_Signed24RoundTrip : fitsS (-8388608) 24 = true ∧ fitsS 8388607 24 = true := by decide

/-- Also the witness of `PayloadBitLayout`; the second state is at 14 bits and above. -/
theorem witness_FieldReadBackAfterPack :
    (exec .pack s2 = .next (packState s2) ∧ (packState s2).err &&& 0x01 = 0 ∧ (packState s2).err &&& 0x04 = 0)
      ∧ (exec .pack warn = .next (packState warn) ∧ (packState warn).err = 0x04) := ⟨⟨rfl, by decide⟩, rfl, by decide⟩

/-- Two states that share lane 1 (its bytes at the ends of its range) and differ in lane 6. -/
theorem witness_LanesAreIndependent :
    let s := { s2 with rVolt := 0xFEB850A4 }
    let s' := { warn with rVolt := 0xFEB850A4 }
    exec .pack s = .next (packState s) ∧ exec .pack s' = .next (packState s') ∧ fieldReg s 1 = fieldReg s' 1
      ∧ (packState s).err &&& 0x01 = 0 ∧ (packState s').err &&& 0x01 = 0
      ∧ (fieldDesc 1).offset ≤ (2 : Fin 15).val ∧ (3 : Fin 15).val < (fieldDesc 1).offset + (fieldDesc 1).bytes :=
  ⟨rfl, rfl, rfl, by decide, by decide, by decide, by decide⟩

/-- Every command completes: the premise of `ErrValuesPerCommand` and of `ErrorBitsHaveTheirCauses`. -/
theorem witness_every_command :
    exec .nop s2 = .next s2 ∧ exec .pack s2 = .next (packState s2) ∧ exec .nonce s2 = .next (nonceState s2)
      ∧ exec .crypt s2 = .next (cryptState Config.blockEnc s2) ∧ exec .encode s2 = .next (encodeState Config.blockEnc s2)
      ∧ exec .keyclr s2 = .next (keyclrState s2) ∧ exec .srst s2 = .next (srstState s2) := ⟨rfl, rfl, rfl, rfl, rfl, rfl, rfl⟩

theorem witness_FatalErrorsWriteNoResult :
    (exec .pack e1 = .next (packState e1) ∧ (packState e1).err &&& 0x1B ≠ 0)
      ∧ (exec .crypt s2 = .next (cryptState Config.blockEnc s2) ∧ (cryptState Config.blockEnc s2).err &&& 0x1B ≠ 0)
      ∧ (exec .encode e1 = .next (encodeState Config.blockEnc e1) ∧ (encodeState Config.blockEnc e1).err &&& 0x1B ≠ 0) :=
  ⟨⟨rfl, by decide⟩, ⟨rfl, by decide⟩, rfl, by decide⟩

/-- A `NOP`, and a write that is no command. -/
theorem witness_ErrChangesOnlyByCommandsAndReset :
    (step (sees (.write 0x00 0x00) s2) = .next s2 ∧ (∀ c, Runs (sees (.write 0x00 0x00) s2) c → c = 0x00)
        ∧ ¬Delivers (sees (.write 0x00 0x00) s2) .reset)
      ∧ (step (sees (.write 0x7F 0xAA) s2) = .next s2 ∧ (∀ c, Runs (sees (.write 0x7F 0xAA) s2) c → c = 0x00)
        ∧ ¬Delivers (sees (.write 0x7F 0xAA) s2) .reset) :=
  ⟨⟨rfl, fun c h => (HostEvent.write.inj (Option.some.inj h)).2.symm, by decide⟩, rfl,
    fun c h => absurd (HostEvent.write.inj (Option.some.inj h)).1 (by decide), by decide⟩

/-- Two states that agree on the header and differ elsewhere. -/
theorem witness_NonceLaws :
    SameHeader s2 { f6 with modelId := 0xA389, readout := 0x02, iv := 0x1234 }
      ∧ exec .nonce s2 = .next (nonceState s2)
      ∧ (nonceState s2).nonce = (nonceState { f6 with modelId := 0xA389, readout := 0x02, iv := 0x1234 }).nonce := by
  exact ⟨by decide, rfl, by decide⟩

/-- Byte 16 of a 17-byte string (block 1, byte 0), and a `CRYPT` that succeeds. -/
theorem witness_CtrXorIsCounterMode :
    (List.replicate 17 (0x5A : Byte))[16 * 1 + (0 : Fin 16).val]? = some 0x5A
      ∧ exec .crypt armed = .next (cryptState Config.blockEnc armed) ∧ (cryptState Config.blockEnc armed).err = 0x00 :=
  ⟨by decide, rfl, by decide⟩

theorem witness_CtrIncIsBigEndianPlusOne : 2 ^ 128 - 1 < 2 ^ 128 := by decide

/-- The last byte of a 16-byte string; `CRYPT` and `ENCODE` that succeed. -/
theorem witness_CtrIncIsNotObservable :
    (List.replicate 16 (0x5A : Byte)).length ≤ 16 ∧ (List.replicate 16 (0x5A : Byte))[(15 : Fin 16).val]? = some 0x5A
      ∧ exec .crypt armed = .next (cryptState Config.blockEnc armed) ∧ (cryptState Config.blockEnc armed).err = 0x00
      ∧ exec .encode s2 = .next (encodeState Config.blockEnc s2) ∧ (encodeState Config.blockEnc s2).err &&& 0x03 = 0 :=
  ⟨by decide, by decide, rfl, by decide, rfl, by decide⟩

theorem witness_CtrXorLaws : ([0x01, 0x02] : List Byte).length = ([0x03, 0x04] : List Byte).length := by decide

/-- The receiver: only the header, the payload and the key are set, from the sender's record. -/
def receiver : State :=
  { State.reset with
    key := key0, keyCnt := 16, pvalid := true, modelId := 0xA389, readout := 0x02, iv := 0x1234
    pbuf := (encodeState Config.blockEnc s2).obuf }

theorem witness_DecryptionRecoversThePayload :
    let s' := encodeState Config.blockEnc s2
    let u := nonceState receiver
    exec .encode s2 = .next s' ∧ s'.err &&& 0x03 = 0 ∧ receiver.key = s2.key ∧ receiver.keyCnt = 16
      ∧ receiver.pvalid = true
      ∧ receiver.modelId.toNat = (readWindow s' (addr 0x50 1)).toNat + 256 * (readWindow s' (addr 0x50 2)).toNat
      ∧ receiver.readout = readWindow s' (addr 0x50 3)
      ∧ receiver.iv.toNat = (readWindow s' (addr 0x50 4)).toNat + 256 * (readWindow s' (addr 0x50 5)).toNat
      ∧ receiver.pbuf = s'.obuf
      ∧ exec .nonce receiver = .next u ∧ exec .crypt u = .next (cryptState Config.blockEnc u) :=
  ⟨rfl, by decide, rfl, rfl, rfl, by decide, by decide, by decide, rfl, rfl, rfl⟩

/-- `ENCODE` that succeeds, with and without the warning, and one whose range check fails. -/
theorem witness_EncodeEqualsTheStages :
    exec .encode s2 = .next (encodeState Config.blockEnc s2) ∧ exec .pack s2 = .next (packState s2)
      ∧ exec .nonce (packState s2) = .next armed ∧ exec .crypt armed = .next (cryptState Config.blockEnc armed)
      ∧ (encodeState Config.blockEnc s2).err &&& 0x03 = 0 ∧ (encodeState Config.blockEnc warn).err = 0x04
      ∧ (encodeState Config.blockEnc e1).err &&& 0x03 ≠ 0 ∧ (packState e1).err &&& 0x01 ≠ 0 :=
  ⟨rfl, rfl, rfl, rfl, by decide, by decide, by decide, by decide⟩

/-- Two states that agree on every input and differ in the old buffers, flags and report. -/
theorem witness_ResultsDependOnlyOnInputs :
    let t := { s2 with err := 0x10, pbuf := Vector.replicate 15 0xFF, obuf := Vector.replicate 15 0xEE, ovalid := true }
    let b := { armed with err := 0x10, obuf := Vector.replicate 15 0xEE, ovalid := true }
    SameReadings s2 t ∧ SameHeader s2 t ∧ SameKey s2 t ∧ exec .encode t = .next (encodeState Config.blockEnc t)
      ∧ (packState s2).err &&& 0x01 = 0 ∧ (encodeState Config.blockEnc s2).err &&& 0x03 = 0
      ∧ SameKey armed b ∧ armed.nonce = b.nonce ∧ armed.pbuf = b.pbuf ∧ armed.pvalid = b.pvalid ∧ armed.nvalid = b.nvalid
      ∧ (cryptState Config.blockEnc armed).err = 0x00 :=
  ⟨by decide, by decide, by decide, rfl, by decide, by decide, by decide, rfl, rfl, rfl, rfl, by decide⟩

theorem witness_RecordWindowAfterEncode :
    exec .encode s2 = .next (encodeState Config.blockEnc s2) ∧ (encodeState Config.blockEnc s2).err &&& 0x03 = 0 :=
  ⟨rfl, by decide⟩

/-- Two payloads, one key, one header. -/
theorem witness_NonceReuseLeaksTheXor :
    let t := { s2 with rVolt := 0x000D0000 }
    SameKey s2 t ∧ SameHeader s2 t ∧ exec .encode s2 = .next (encodeState Config.blockEnc s2)
      ∧ exec .encode t = .next (encodeState Config.blockEnc t) ∧ (encodeState Config.blockEnc s2).err &&& 0x03 = 0
      ∧ (encodeState Config.blockEnc t).err &&& 0x03 = 0 ∧ s2.rVolt ≠ t.rVolt :=
  ⟨by decide, by decide, rfl, rfl, by decide, by decide, by decide⟩

theorem witness_RepeatedCommands :
    exec .encode s2 = .next (encodeState Config.blockEnc s2)
      ∧ exec .encode (encodeState Config.blockEnc s2) = .next (encodeState Config.blockEnc (encodeState Config.blockEnc s2))
      ∧ exec .crypt armed = .next (cryptState Config.blockEnc armed) ∧ (cryptState Config.blockEnc armed).err = 0x00 :=
  ⟨rfl, rfl, rfl, by decide⟩

/-- A read pending; the ends of the reserved addresses. -/
theorem witness_HostReadReturnsTheTable :
    (sees (.read 0x7F) s2).pending = .read 0x7F :: [] ∧ isReserved 0x07 ∧ isReserved 0x2C ∧ isReserved 0x2F ∧ isReserved 0x65
      ∧ isReserved 0x7F ∧ ¬isReserved 0x30 ∧ ¬isReserved 0x64 :=
  ⟨rfl, by decide, by decide, by decide, by decide, by decide, by decide, by decide⟩

/-- The ends of the plain registers. -/
theorem witness_PlainRegisterWrite :
    (sees (.write 0x08 0xFF) s2).pending = .write 0x08 0xFF :: [] ∧ isPlainRegister 0x08 ∧ isPlainRegister 0x14
      ∧ isPlainRegister 0x17 ∧ isPlainRegister 0x1C ∧ isPlainRegister 0x2B ∧ ¬isPlainRegister 0x2C :=
  ⟨rfl, by decide, by decide, by decide, by decide, by decide, by decide⟩

/-- The sixteenth byte, and the seventeenth. -/
theorem witness_KeyinWrite :
    (sees (.write 0x04 0x10) { s2 with keyCnt := 15 }).pending = .write 0x04 0x10 :: []
      ∧ ({ s2 with keyCnt := 15 } : State).keyCnt.toNat < 16
      ∧ (sees (.write 0x04 0xAA) s2).pending = .write 0x04 0xAA :: [] ∧ 16 ≤ s2.keyCnt.toNat := by decide

/-- An empty key, a whole one, and one byte too many. -/
theorem witness_KeyLoadCountsTheBytes :
    (∃ s : State, s.pending = expandLine (.key []))
      ∧ (∃ s : State, s.pending = expandLine (.key key0.toList) ∧ key0.toList.length = 16)
      ∧ ∃ s : State, s.pending = expandLine (.key (key0.toList ++ [0xAA])) ∧ (key0.toList ++ [0xAA]).length = 17 :=
  ⟨⟨{ s2 with pending := expandLine (.key []) }, rfl⟩,
    ⟨{ s2 with pending := expandLine (.key key0.toList) }, rfl, rfl⟩,
    ⟨{ s2 with pending := expandLine (.key (key0.toList ++ [0xAA])) }, rfl, rfl⟩⟩

/-- The ends of `PBUF`, a read-only location, a reserved one and `CMD`. Also for `ReservedAndReadOnlyLocations`. -/
theorem witness_PbufAndOtherWrites :
    (sees (.write 0x30 0x78) s2).pending = .write (addr 0x30 (0 : Fin 15)) 0x78 :: []
      ∧ (sees (.write 0x3E 0x78) s2).pending = .write (addr 0x30 (14 : Fin 15)) 0x78 :: []
      ∧ (sees (.write 0x40 0x55) s2).pending = .write 0x40 0x55 :: [] ∧ isReadOnly 0x40 ∧ isReadOnly 0x64
      ∧ (sees (.write 0x7F 0x55) s2).pending = .write 0x7F 0x55 :: [] ∧ isReserved 0x7F
      ∧ (sees (.write 0x00 0x02) s2).pending = .write 0x00 0x02 :: [] ∧ decode 0x02 = .ok .nonce ∧ Inv s2 := by decide

theorem witness_WritesAreIdempotent :
    let s := { s2 with pending := [.write 0x30 0x78, .write 0x30 0x78] }
    s.pending = .write 0x30 0x78 :: .write 0x30 0x78 :: [] ∧ (0x30 : Addr) ≠ 0x00 ∧ (0x30 : Addr) ≠ 0x04
      ∧ step s = .next { s2 with
          pending := [.write 0x30 0x78], pbuf := s2.pbuf.set 0 0x78, pvalid := true } :=
  ⟨rfl, by decide, by decide, rfl⟩

theorem witness_WordWritesAreLittleEndian :
    ({ s2 with pending := expandLine (.w16 (.reg .MODELID 0) 0xA389) } : State).pending
        = [.write 0x08 0x89, .write 0x09 0xA3]
      ∧ ({ s2 with pending := expandLine (.w32 (.reg .R_SOC 0) 0x00558000) } : State).pending
        = [.write 0x28 0x00, .write 0x29 0x80, .write 0x2A 0x55, .write 0x2B 0x00] := by decide

/-- The two ways a reset comes about. -/
theorem witness_ResetEventClearsEverything :
    (Delivers (sees .reset s2) .reset ∧ step (sees .reset s2) = .next State.reset)
      ∧ exec .srst s2 = .next (srstState s2) := ⟨⟨by decide, rfl⟩, rfl⟩

/-- A state with the invariant and a step from it; also for `ValidRecordIsSelfConsistent`. -/
theorem witness_StepKeepsInv :
    Inv (sees (.write 0x00 0x01) e1) ∧ step (sees (.write 0x00 0x01) e1) = .next (packState e1) := ⟨by decide, rfl⟩

theorem witness_ValidRecordIsSelfConsistent :
    RecordInv (encodeState Config.blockEnc s2) ∧ (encodeState Config.blockEnc s2).ovalid = true :=
  ⟨fun _ => ⟨s2.key, rfl⟩, by decide⟩

/-- A step of each kind that the transition statements name. -/
theorem witness_flag_transitions :
    step (sees (.write 0x00 0x01) s2) = .next (packState s2) ∧ Runs (sees (.write 0x00 0x01) s2) 0x01
      ∧ step (sees (.write 0x00 0x03) s2) = .next (cryptState Config.blockEnc s2) ∧ Runs (sees (.write 0x00 0x03) s2) 0x03
      ∧ s2.pvalid = false ∧ s2.nvalid = false
      ∧ WritesPbuf (sees (.write 0x3E 0x00) s2) :=
  ⟨rfl, by decide, rfl, by decide, rfl, rfl, ⟨14, 0x00, by decide⟩⟩

/-- A step that writes `NONCE`. -/
theorem witness_NonceResult :
    Instr.nonce ≠ .nop ∧ step (sees (.write 0x00 0x02) s2) = .next (nonceState s2) ∧ (nonceState s2).nonce ≠ s2.nonce :=
  ⟨by decide, rfl, by decide⟩

/-- A loaded key that `KEYCLR` clears. -/
theorem witness_KeyclrResult :
    exec .keyclr s2 = .next (keyclrState s2) ∧ step (sees (.write 0x00 0x05) s2) = .next (keyclrState s2)
      ∧ (sees (.write 0x00 0x05) s2).keyCnt = 16 ∧ (keyclrState s2).key ≠ s2.key := ⟨rfl, rfl, by decide, by decide⟩

/-- A step that writes `OBUF`. -/
theorem witness_NoCiphertextWithoutAKey :
    step (sees (.write 0x00 0x03) armed) = .next (cryptState Config.blockEnc armed) ∧ armed.keyCnt = 16 := ⟨rfl, by decide⟩

theorem witness_KeyIsNotReadable : ¬Runs (sees (.read 0x01) s2) 0x03 ∧ ¬Runs (sees (.read 0x01) s2) 0x04 := by decide

theorem witness_KeyChangesOnlyByKeyinKeyclrReset :
    step (sees (.write 0x00 0x05) s2) = .next (keyclrState s2) ∧ (keyclrState s2).key ≠ (sees (.write 0x00 0x05) s2).key := by
  exact ⟨rfl, by decide⟩

theorem witness_OperandsChangeOnlyByHostSrstReset :
    step (sees (.write 0x00 0x06) s2) = .next (srstState s2)
      ∧ ¬(SameReadings (sees (.write 0x00 0x06) s2) (srstState s2) ∧ SameHeader (sees (.write 0x00 0x06) s2) (srstState s2)) :=
  ⟨rfl, by decide⟩

end Sys2Proof.Tests
end

section
/-!
PROOFS. Rounding (R12): what `roundTo` gives in each of its cases, said once, and the two statements of `00_scope.md`.
-/

namespace Sys2Proof.Machine

/-! ## The cases of `roundTo` (R12) -/

theorem roundTo_of_half_lt {t : Int} {f : Nat} (h : 2 ^ (f - 1) < t % 2 ^ f) (tie : Config.TieRule) :
    roundTo tie t f = t / 2 ^ f + 1 := by
  simp [roundTo, h]

theorem roundTo_of_lt_half {t : Int} {f : Nat} (h : t % 2 ^ f < 2 ^ (f - 1)) (tie : Config.TieRule) :
    roundTo tie t f = t / 2 ^ f := by
  simp [roundTo, h, h.le]

theorem rne_of_tie {t : Int} {f : Nat} (h : t % 2 ^ f = 2 ^ (f - 1)) :
    rne t f = if Even (t / 2 ^ f) then t / 2 ^ f else t / 2 ^ f + 1 := by
  simp [rne, roundTo, h, Int.even_iff]

theorem roundTo_halfAwayFromZero_of_tie {t : Int} {f : Nat} (h : t % 2 ^ f = 2 ^ (f - 1)) :
    roundTo .halfAwayFromZero t f = if 0 ≤ t then t / 2 ^ f + 1 else t / 2 ^ f := by
  simp [roundTo, h]

theorem even_rne_of_tie {t : Int} {f : Nat} (h : t % 2 ^ f = 2 ^ (f - 1)) : Even (rne t f) := by
  rw [rne_of_tie h]
  split
  case isTrue hq => exact hq
  case isFalse hq => exact (Int.not_even_iff_odd.mp hq).add_one

/-- R12, under either tie rule: the floor quotient with a remainder up to the half, or one more with a remainder from it. -/
theorem roundTo_cases (tie : Config.TieRule) (t : Int) (f : Nat) :
    (roundTo tie t f = t / 2 ^ f ∧ t % 2 ^ f ≤ 2 ^ (f - 1))
      ∨ (roundTo tie t f = t / 2 ^ f + 1 ∧ 2 ^ (f - 1) ≤ t % 2 ^ f) := by
  rcases lt_trichotomy (t % 2 ^ f) (2 ^ (f - 1)) with hlt | heq | hgt
  · exact .inl ⟨roundTo_of_lt_half hlt tie, hlt.le⟩
  · cases tie with
    | halfToEven =>
      have e := rne_of_tie heq
      rw [rne] at e
      split at e
      · exact .inl ⟨e, heq.le⟩
      · exact .inr ⟨e, heq.ge⟩
    | halfAwayFromZero =>
      have e := roundTo_halfAwayFromZero_of_tie heq
      split at e
      · exact .inr ⟨e, heq.ge⟩
      · exact .inl ⟨e, heq.le⟩
  · exact .inr ⟨roundTo_of_half_lt hgt tie, hgt.le⟩

/-! ## The distance to the rounded value (R12) -/

/-- The distance from `t` is the remainder, or what the remainder lacks to `2 ^ f`, whichever side was taken; it is at most
the half. -/
theorem abs_sub_roundTo_cases (tie : Config.TieRule) (t : Int) {f : Nat} (hf : 1 ≤ f) :
    (|t - roundTo tie t f * 2 ^ f| = t % 2 ^ f ∧ t % 2 ^ f ≤ 2 ^ (f - 1))
      ∨ (|t - roundTo tie t f * 2 ^ f| = 2 ^ f - t % 2 ^ f ∧ 2 ^ f - t % 2 ^ f ≤ 2 ^ (f - 1)) := by
  have hp : (0 : Int) < 2 ^ f := by positivity
  have hhalf : (2 : Int) * 2 ^ (f - 1) = 2 ^ f := mul_pow_sub_one (by omega) 2
  have hdiv : t / 2 ^ f * 2 ^ f + t % 2 ^ f = t := Int.ediv_mul_add_emod t (2 ^ f)
  have hnonneg := Int.emod_nonneg t hp.ne'
  have hlt := Int.emod_lt_of_pos t hp
  rcases roundTo_cases tie t f with ⟨hq, hr⟩ | ⟨hq, hr⟩
  · have hd : t - roundTo tie t f * 2 ^ f = t % 2 ^ f := by rw [hq]; omega
    exact .inl ⟨by rw [hd, abs_of_nonneg hnonneg], hr⟩
  · have hd : t - roundTo tie t f * 2 ^ f = -(2 ^ f - t % 2 ^ f) := by rw [hq, add_mul]; omega
    exact .inr ⟨by rw [hd, abs_neg, abs_of_nonneg (by omega)], by omega⟩

theorem two_mul_abs_sub_roundTo_le (tie : Config.TieRule) (t : Int) {f : Nat} (hf : 1 ≤ f) :
    2 * |t - roundTo tie t f * 2 ^ f| ≤ 2 ^ f := by
  have hhalf : (2 : Int) * 2 ^ (f - 1) = 2 ^ f := mul_pow_sub_one (by omega) 2
  rcases abs_sub_roundTo_cases tie t hf with ⟨hd, hr⟩ | ⟨hd, hr⟩ <;> omega

/-- A distance of exactly half a unit comes from a tie only. -/
theorem emod_eq_half_of_two_mul_abs_sub_roundTo_eq {tie : Config.TieRule} {t : Int} {f : Nat} (hf : 1 ≤ f)
    (h : 2 * |t - roundTo tie t f * 2 ^ f| = 2 ^ f) : t % 2 ^ f = 2 ^ (f - 1) := by
  have hhalf : (2 : Int) * 2 ^ (f - 1) = 2 ^ f := mul_pow_sub_one (by omega) 2
  rcases abs_sub_roundTo_cases tie t hf with ⟨hd, hr⟩ | ⟨hd, hr⟩ <;> omega

/-- A multiple `m * p` at most half of `p` away is a nearest multiple: any other one is at least `p` away from it. -/
theorem abs_sub_mul_le_of_two_mul_abs_le {t m p : Int} (h : 2 * |t - m * p| ≤ p) (n : Int) :
    |t - m * p| ≤ |t - n * p| := by
  rcases eq_or_ne n m with rfl | hne
  · exact le_rfl
  · have hgap : p ≤ |n * p - m * p| := by
      rw [← sub_mul, abs_mul]
      calc p ≤ |p| := le_abs_self p
        _ ≤ |n - m| * |p| := le_mul_of_one_le_left (abs_nonneg p) (Int.one_le_abs (sub_ne_zero.mpr hne))
    have htri : |n * p - m * p| ≤ |n * p - t| + |t - m * p| := abs_sub_le _ _ _
    rw [abs_sub_comm (n * p) t] at htri
    omega

/-! ## The statements -/

/-- Settles O15: half a unit bounds the distance, exactly half is a tie, and within half a unit nothing is nearer. -/
theorem roundingIsNearestTiesToEven : Obligations.RoundingIsNearestTiesToEven := by
  intro t f hf
  have hhalf : 2 * |t - rne t f * 2 ^ f| ≤ 2 ^ f := two_mul_abs_sub_roundTo_le .halfToEven t hf
  exact ⟨hhalf, fun heq => even_rne_of_tie (emod_eq_half_of_two_mul_abs_sub_roundTo_eq hf heq),
    abs_sub_mul_le_of_two_mul_abs_le hhalf⟩

/-- Settles O14: `q` and `r` are the floor quotient and remainder, so that each part is one case of `roundTo`. -/
theorem roundingByQuotientAndRemainder : Obligations.RoundingByQuotientAndRemainder := by
  intro t q r f _ ht hr0 hr
  obtain ⟨rfl, rfl⟩ : t / 2 ^ f = q ∧ t % 2 ^ f = r :=
    (Int.ediv_emod_unique (by positivity)).mpr ⟨by rw [ht]; ring, hr0, hr⟩
  refine ⟨roundTo_of_half_lt, roundTo_of_lt_half, fun htie => ⟨fun hq => ?_, fun hq => ?_, fun h0 => ?_, fun h0 => ?_⟩⟩
  · rw [rne_of_tie htie, if_pos hq]
  · rw [rne_of_tie htie, if_neg (Int.not_even_iff_odd.mpr hq)]
  · rw [roundTo_halfAwayFromZero_of_tie htie, if_pos h0]
  · rw [roundTo_halfAwayFromZero_of_tie htie, if_neg h0.not_ge]

end Sys2Proof.Machine
end

section
/-!
PROOFS. The step by the event it delivers (R20, R33, R170 to R173, R220): one equation for each kind of event, the inversion
`StepsTo`, and what each event makes of `Delivers`, `Runs` and `WritesPbuf`.
-/

namespace Sys2Proof.Machine

open Sys2Proof.Safety

/-! ## The commands as functions of the state -/

/-- The next state of each command; `exec_eq` ties it to `exec`. -/
def commandState (i : Instr) (s : State) : State :=
  match i with
  | .nop => s
  | .pack => packState s
  | .nonce => nonceState s
  | .crypt => cryptState Config.blockEnc s
  | .encode => encodeState Config.blockEnc s
  | .keyclr => keyclrState s
  | .srst => srstState s

/-- R199: no command faults or is refused. -/
theorem exec_eq (i : Instr) (s : State) : exec i s = .next (commandState i s) := by
  cases i <;> rfl

theorem eq_encode_of_decode {c : Byte} {i : Instr} (h : decode c = .ok i) : c = encode i := by
  revert c
  cases i <;> decide

theorem seven_le_of_decode_error {c : Byte} {e : DecodeReject} (h : decode c = .error e) : 7 ≤ c.toNat := by
  by_contra hlt
  obtain ⟨n, hn⟩ : ∃ n : Fin 7, c = BitVec.ofNat 8 n := ⟨⟨c.toNat, by omega⟩, by simp⟩
  subst hn
  fin_cases n <;> exact absurd h nofun

/-! ## One equation for each kind of event -/

section
variable {s : State} {a : Addr} {c v : Byte} {rest : List HostEvent}

theorem step_of_idle (hp : s.pending = []) : step s = .next s := by
  simp [step, fetch, hp]

theorem step_of_reset (hp : s.pending = .reset :: rest) : step s = .next (hardwareReset rest) := by
  simp [step, fetch, hp]

theorem step_of_read (hp : s.pending = .read a :: rest) :
    step s = .next (deliver rest (some (readWindow s a)) s) := by
  simp [step, fetch, hp]

theorem step_of_write (hp : s.pending = .write a v :: rest) (ha : a ≠ 0x00) :
    step s = .next (writeWindow a v (deliver rest none s)) := by
  simp [step, fetch, hp, mt (locate_eq_cmd a).1 ha]

theorem step_of_command {i : Instr} (hp : s.pending = .write 0x00 c :: rest) (hd : decode c = .ok i) :
    step s = exec i (deliver rest none s) := by
  simp [step, fetch, hp, hd]

theorem step_of_illegal {e : DecodeReject} (hp : s.pending = .write 0x00 c :: rest) (hd : decode c = .error e) :
    step s = .next (raiseError 0x10 0x00 false false false (deliver rest none s)) := by
  simp [step, fetch, hp, hd, illegalCommand]
  rfl

/-! ## The write of one byte, by address -/

theorem writeWindow_keyin : writeWindow 0x04 v s = pushKey v s := by
  rw [writeWindow, (locate_eq_keyin 0x04).2 rfl, writeLoc]

theorem writeWindow_pbuf (i : Fin 15) :
    writeWindow (addr 0x30 i) v s = { s with pbuf := s.pbuf.set i v, pvalid := true, ovalid := false } := by
  simp [writeWindow, locate_pbuf, writeLoc]

/-- R171, R65: away from `KEYIN` and `PBUF` a write reaches the header and reading registers at most. -/
theorem writeWindow_register (s : State) (v : Byte) (h4 : a ≠ 0x04) (hpbuf : ∀ i : Fin 15, a ≠ addr 0x30 i) :
    writeWindow a v s = { s with
        modelId := (writeWindow a v s).modelId, readout := (writeWindow a v s).readout, iv := (writeWindow a v s).iv
        rTtg := (writeWindow a v s).rTtg, rVolt := (writeWindow a v s).rVolt, rAlarm := (writeWindow a v s).rAlarm
        rAux := (writeWindow a v s).rAux, rCurr := (writeWindow a v s).rCurr, rCons := (writeWindow a v s).rCons
        rSoc := (writeWindow a v s).rSoc } := by
  rcases writeWindow_cases a v s with ⟨ha, _⟩ | ⟨i, ha, _⟩ | h
  · exact absurd ha h4
  · exact absurd ha (hpbuf i)
  · exact h

end

/-! ## Inversion of the step -/

/-- What one step can do, one constructor for each kind of event; `stepsTo_of_step` ties it to `step`. -/
inductive StepsTo (s : State) : State → Prop where
  /-- R207. -/
  | idle (hp : s.pending = []) : StepsTo s s
  /-- R220. -/
  | reset {rest : List HostEvent} (hp : s.pending = .reset :: rest) : StepsTo s (hardwareReset rest)
  /-- R170. -/
  | read {a : Addr} {rest : List HostEvent} (hp : s.pending = .read a :: rest) :
      StepsTo s (deliver rest (some (readWindow s a)) s)
  /-- R172. -/
  | keyin {v : Byte} {rest : List HostEvent} (hp : s.pending = .write 0x04 v :: rest) :
      StepsTo s (pushKey v (deliver rest none s))
  /-- R173. -/
  | pbuf {i : Fin 15} {v : Byte} {rest : List HostEvent} (hp : s.pending = .write (addr 0x30 i) v :: rest) :
      StepsTo s { deliver rest none s with pbuf := s.pbuf.set i v, pvalid := true, ovalid := false }
  /-- R171, R65: a header or reading register, or a location that ignores the write. -/
  | register {a : Addr} {v : Byte} {rest : List HostEvent} (hp : s.pending = .write a v :: rest) (h0 : a ≠ 0x00)
      (h4 : a ≠ 0x04) (hpbuf : ∀ i : Fin 15, a ≠ addr 0x30 i) : StepsTo s (writeWindow a v (deliver rest none s))
  /-- R33. -/
  | command (i : Instr) {rest : List HostEvent} (hp : s.pending = .write 0x00 (encode i) :: rest) :
      StepsTo s (commandState i (deliver rest none s))
  /-- R177. -/
  | illegal {c : Byte} {rest : List HostEvent} (hp : s.pending = .write 0x00 c :: rest) (hc : 7 ≤ c.toNat) :
      StepsTo s (raiseError 0x10 0x00 false false false (deliver rest none s))

theorem stepsTo_of_step {s t : State} (h : step s = .next t) : StepsTo s t := by
  rcases step_cases h with ⟨hp, rfl⟩ | ⟨rest, hp, rfl⟩ | ⟨a, rest, hp, rfl⟩ | ⟨a, v, rest, hp, h0, rfl⟩
    | ⟨c, i, rest, hp, hd, hx⟩ | ⟨c, e, rest, hp, hd, rfl⟩
  · exact .idle hp
  · exact .reset hp
  · exact .read hp
  · by_cases h4 : a = 0x04
    · subst h4
      rw [writeWindow_keyin]
      exact .keyin hp
    by_cases hpbuf : ∃ i : Fin 15, a = addr 0x30 i
    · obtain ⟨i, rfl⟩ := hpbuf
      rw [writeWindow_pbuf]
      exact .pbuf hp
    · exact .register hp h0 h4 (not_exists.1 hpbuf)
  · obtain rfl := eq_encode_of_decode hd
    rw [exec_eq, next_inj] at hx
    exact hx ▸ .command i hp
  · exact .illegal hp (seven_le_of_decode_error hd)

/-! ## What the next step delivers -/

section
variable {s : State} {a : Addr} {c v : Byte} {rest : List HostEvent}

theorem delivers_iff {e : HostEvent} (hp : s.pending = e :: rest) (e' : HostEvent) : Delivers s e' ↔ e = e' := by
  simp [Delivers, hp]

theorem not_delivers_of_idle (hp : s.pending = []) (e : HostEvent) : ¬Delivers s e := by
  simp [Delivers, hp]

theorem runs_iff (hp : s.pending = .write 0x00 c :: rest) (d : Byte) : Runs s d ↔ c = d := by
  simp [delivers_iff hp]

theorem not_runs_of_write (hp : s.pending = .write a v :: rest) (h0 : a ≠ 0x00) (d : Byte) : ¬Runs s d := by
  rw [Runs, delivers_iff hp]
  rintro ⟨⟩
  exact h0 rfl

theorem writesPbuf_iff (hp : s.pending = .write a v :: rest) : WritesPbuf s ↔ ∃ i : Fin 15, a = addr 0x30 i := by
  simp [WritesPbuf, delivers_iff hp]

theorem not_writesPbuf (h : ∀ a v, ¬Delivers s (.write a v)) : ¬WritesPbuf s :=
  fun ⟨_, v, hi⟩ => h _ v hi

theorem zero_ne_addr_pbuf (i : Fin 15) : (0x00 : Addr) ≠ addr 0x30 i := by
  revert i; decide

theorem keyin_ne_addr_pbuf (i : Fin 15) : (0x04 : Addr) ≠ addr 0x30 i := by
  revert i; decide

end

end Sys2Proof.Machine
end

section
/-!
PROOFS. What each command writes and keeps: its frame, and the validity flags after it in terms of the `ERR` it reports
(R27 to R29, R115, R131, R145, R160, R175, R176).
-/

namespace Sys2Proof.Machine

open Sys2Proof.Safety

/-! ## One equation for each outcome of a command that can fail -/

section
variable {enc : Block → Block → Block} {s : State}

theorem packState_of_fail (h : anyFail (fieldValues s) = true) :
    packState s = raiseError (errByte true false (socWarn (fieldValues s)) false false) (rangeMask (fieldValues s)) true
      false true s := by
  rcases packState_cases s with ⟨_, hs⟩ | ⟨hpass, _⟩
  · exact hs
  · simp [h] at hpass

theorem packState_of_pass (h : anyFail (fieldValues s) = false) :
    packState s = setFlags true s.nvalid false (storePayload (payloadOf (fieldValues s))
      (report (errByte false false (socWarn (fieldValues s)) false false) 0 s)) := by
  rcases packState_cases s with ⟨hfail, _⟩ | ⟨_, hs⟩
  · simp [h] at hfail
  · exact hs

theorem cryptState_of_not_ready (h : (keyOk s && s.pvalid && s.nvalid) = false) :
    cryptState enc s = raiseError (errByte false (!keyOk s) false (!(s.pvalid && s.nvalid)) false) 0 false false true s := by
  rcases cryptState_cases enc s with ⟨_, hs⟩ | ⟨hk, hp, hn, _⟩
  · exact hs
  · simp [hk, hp, hn] at h

theorem cryptState_of_ready (hk : keyOk s = true) (hp : s.pvalid = true) (hn : s.nvalid = true) :
    cryptState enc s = setFlags true false true (runCipher enc (report 0 0 s)) := by
  rcases cryptState_cases enc s with ⟨hf, _⟩ | ⟨_, _, _, hs⟩
  · simp [hk, hp, hn] at hf
  · exact hs

theorem encodeState_of_fail (h : (anyFail (fieldValues s) || !keyOk s) = true) :
    encodeState enc s = raiseError (errByte (anyFail (fieldValues s)) (!keyOk s) (socWarn (fieldValues s)) false false)
      (rangeMask (fieldValues s)) true true true s := by
  rcases encodeState_cases enc s with ⟨_, hs⟩ | ⟨hv, hk, _⟩
  · exact hs
  · simp [hv, hk] at h

theorem encodeState_of_pass (hv : anyFail (fieldValues s) = false) (hk : keyOk s = true) :
    encodeState enc s = setFlags true false true (runCipher enc (storeNonce (buildNonce s.modelId s.readout s.iv)
      (storePayload (payloadOf (fieldValues s))
        (report (errByte false false (socWarn (fieldValues s)) false false) 0 s)))) := by
  rcases encodeState_cases enc s with ⟨hf, _⟩ | ⟨_, _, hs⟩
  · simp [hv, hk] at hf
  · exact hs

end

/-! ## Frames -/

/-- R115: `PACK` writes the report, `PBUF`, `PVALID` and `OVALID` at most. -/
theorem packState_frame (s : State) :
    packState s = { s with
      err := (packState s).err, rfield := (packState s).rfield, pbuf := (packState s).pbuf
      pvalid := (packState s).pvalid, ovalid := (packState s).ovalid } := by
  rcases packState_cases s with ⟨_, h⟩ | ⟨_, h⟩ <;> rw [h] <;> simp [raiseError, setFlags, report, storePayload]

/-- R145: `CRYPT` writes the report, `OBUF`, `NVALID`, `OVALID` and the hidden registers at most. -/
theorem cryptState_frame (enc : Block → Block → Block) (s : State) :
    cryptState enc s = { s with
      err := (cryptState enc s).err, rfield := (cryptState enc s).rfield, obuf := (cryptState enc s).obuf
      nvalid := (cryptState enc s).nvalid, ovalid := (cryptState enc s).ovalid, ctr := (cryptState enc s).ctr
      ks := (cryptState enc s).ks } := by
  rcases cryptState_cases enc s with ⟨_, h⟩ | ⟨_, hp, _, h⟩ <;> rw [h] <;>
    simp [raiseError, setFlags, report, runCipher, *]

/-- R160: `ENCODE` keeps the key, its count and the operands. -/
theorem encodeState_frame (enc : Block → Block → Block) (s : State) :
    encodeState enc s = { s with
      err := (encodeState enc s).err, rfield := (encodeState enc s).rfield, pbuf := (encodeState enc s).pbuf
      nonce := (encodeState enc s).nonce, obuf := (encodeState enc s).obuf, pvalid := (encodeState enc s).pvalid
      nvalid := (encodeState enc s).nvalid, ovalid := (encodeState enc s).ovalid, ctr := (encodeState enc s).ctr
      ks := (encodeState enc s).ks } := by
  rcases encodeState_cases enc s with ⟨_, h⟩ | ⟨_, _, h⟩ <;> rw [h] <;>
    simp [raiseError, setFlags, report, storePayload, storeNonce, runCipher]

/-- R23, R24: no command but `SRST` writes a reading or header register. -/
theorem commandState_operands {i : Instr} (hi : i ≠ .srst) (s : State) :
    SameReadings s (commandState i s) ∧ SameHeader s (commandState i s) := by
  cases i with
  | srst => exact absurd rfl hi
  | nop | nonce | keyclr => simp [commandState, nonceState, keyclrState, SameReadings, SameHeader]
  | pack => rw [commandState, packState_frame]; simp [SameReadings, SameHeader]
  | crypt => rw [commandState, cryptState_frame]; simp [SameReadings, SameHeader]
  | encode => rw [commandState, encodeState_frame]; simp [SameReadings, SameHeader]

/-- R35: no command but `KEYCLR` writes the key or its count. -/
theorem commandState_key {i : Instr} (hi : i ≠ .keyclr) (s : State) :
    (commandState i s).key = s.key ∧ (commandState i s).keyCnt = s.keyCnt := by
  cases i with
  | keyclr => exact absurd rfl hi
  | nop | nonce | srst => exact ⟨rfl, rfl⟩
  | pack => rw [commandState, packState_frame]; exact ⟨rfl, rfl⟩
  | crypt => rw [commandState, cryptState_frame]; exact ⟨rfl, rfl⟩
  | encode => rw [commandState, encodeState_frame]; exact ⟨rfl, rfl⟩

/-! ## The validity flags -/

section
variable (enc : Block → Block → Block) (s : State)

@[simp] theorem packState_nvalid : (packState s).nvalid = s.nvalid := by rw [packState_frame]

@[simp] theorem packState_ovalid : (packState s).ovalid = false := by
  rcases packState_cases s with ⟨_, h⟩ | ⟨_, h⟩ <;> simp [h]

/-- R27: `PACK` leaves `PVALID` set exactly when it raised no Range error. -/
theorem packState_pvalid : (packState s).pvalid = true ↔ (packState s).err &&& 0x01 = 0 := by
  rw [(packState_report s).1, errByte_and_one]
  rcases packState_cases s with ⟨hf, h⟩ | ⟨hf, h⟩ <;> simp [h, hf]

@[simp] theorem nonceState_pvalid : (nonceState s).pvalid = s.pvalid := rfl
@[simp] theorem nonceState_nvalid : (nonceState s).nvalid = true := rfl
@[simp] theorem nonceState_ovalid : (nonceState s).ovalid = false := rfl

theorem cryptState_err_eq_zero :
    (cryptState enc s).err = 0 ↔ keyOk s = true ∧ s.pvalid = true ∧ s.nvalid = true := by
  rw [(cryptState_report enc s).1]
  cases keyOk s <;> cases s.pvalid <;> cases s.nvalid <;> decide

/-- R145: `CRYPT` reports `E_SEQ` exactly when the payload is not valid or the nonce not armed. -/
theorem cryptState_err_and_eight :
    (cryptState enc s).err &&& 0x08 ≠ 0 ↔ s.pvalid = false ∨ s.nvalid = false := by
  rw [(cryptState_report enc s).1]
  cases keyOk s <;> cases s.pvalid <;> cases s.nvalid <;> decide

@[simp] theorem cryptState_pvalid : (cryptState enc s).pvalid = s.pvalid := by rw [cryptState_frame]

/-- R28: only a successful `CRYPT` uses the nonce up. -/
theorem cryptState_nvalid :
    (cryptState enc s).nvalid = true ↔ s.nvalid = true ∧ (cryptState enc s).err ≠ 0 := by
  rw [ne_eq, cryptState_err_eq_zero]
  rcases cryptState_cases enc s with ⟨hf, h⟩ | ⟨hk, hp, hn, h⟩
  · rw [and_iff_left (by simpa using hf), h]; simp
  · simp [h, hk, hp, hn]

theorem cryptState_ovalid : (cryptState enc s).ovalid = true ↔ (cryptState enc s).err = 0 := by
  rw [cryptState_err_eq_zero]
  rcases cryptState_cases enc s with ⟨hf, h⟩ | ⟨hk, hp, hn, h⟩
  · have hf' : ¬(keyOk s = true ∧ s.pvalid = true ∧ s.nvalid = true) := by simpa using hf
    simp [h, hf']
  · simp [h, hk, hp, hn]

theorem encodeState_err_and_three :
    (encodeState enc s).err &&& 0x03 = 0 ↔ anyFail (fieldValues s) = false ∧ keyOk s = true := by
  rw [(encodeState_report enc s).1, errByte_and_three, Bool.not_eq_false']

/-- R27: `ENCODE` leaves `PVALID` set exactly when it succeeded. -/
theorem encodeState_pvalid : (encodeState enc s).pvalid = true ↔ (encodeState enc s).err &&& 0x03 = 0 := by
  rw [encodeState_err_and_three]
  rcases encodeState_cases enc s with ⟨hf, h⟩ | ⟨hf, hk, h⟩
  · rw [h]; simpa [or_iff_not_imp_left] using hf
  · simp [h, hf, hk]

@[simp] theorem encodeState_nvalid : (encodeState enc s).nvalid = false := by
  rcases encodeState_cases enc s with ⟨_, h⟩ | ⟨_, _, h⟩ <;> simp [h]

theorem encodeState_ovalid : (encodeState enc s).ovalid = true ↔ (encodeState enc s).err &&& 0x03 = 0 := by
  rw [encodeState_err_and_three]
  rcases encodeState_cases enc s with ⟨hf, h⟩ | ⟨hf, hk, h⟩
  · rw [h]; simpa [or_iff_not_imp_left] using hf
  · simp [h, hf, hk]

@[simp] theorem srstState_pvalid : (srstState s).pvalid = false := rfl
@[simp] theorem srstState_nvalid : (srstState s).nvalid = false := rfl
@[simp] theorem srstState_ovalid : (srstState s).ovalid = false := rfl

@[simp] theorem hardwareReset_pvalid (rest : List HostEvent) : (hardwareReset rest).pvalid = false := rfl
@[simp] theorem hardwareReset_nvalid (rest : List HostEvent) : (hardwareReset rest).nvalid = false := rfl
@[simp] theorem hardwareReset_ovalid (rest : List HostEvent) : (hardwareReset rest).ovalid = false := rfl

/-! ## The push of a key byte -/

/-- R172: a push writes the key and its count at most. -/
theorem pushKey_frame (v : Byte) : pushKey v s = { s with key := (pushKey v s).key, keyCnt := (pushKey v s).keyCnt } := by
  rcases pushKey_cases v s with ⟨_, h⟩ | ⟨_, h⟩ <;> simp [h]

@[simp] theorem pushKey_pvalid (v : Byte) : (pushKey v s).pvalid = s.pvalid := by rw [pushKey_frame]
@[simp] theorem pushKey_nvalid (v : Byte) : (pushKey v s).nvalid = s.nvalid := by rw [pushKey_frame]
@[simp] theorem pushKey_ovalid (v : Byte) : (pushKey v s).ovalid = s.ovalid := by rw [pushKey_frame]

end

end Sys2Proof.Machine
end

section
/-!
PROOFS. The two invariants of 10_state.md (R27 to R29, R31, R32, R35, R38, R45): each operation keeps them, and so every step.
-/

namespace Sys2Proof.Machine

open Sys2Proof.Safety

/-! ## The invariant `Inv`, in four parts -/

/-- R31, R32: no reserved bit is set, and `RFIELD` names a field exactly when `E_RANGE` is reported. -/
def ReportConsistent (e rf : Byte) : Prop :=
  e &&& 0xE0 = 0 ∧ rf &&& 0x85 = 0 ∧ (rf ≠ 0 ↔ e &&& 0x01 ≠ 0)

/-- R38: the bytes of the nonce from the fifth on are 0. -/
def ZeroTail (n : Block) : Prop := ∀ i : Fin 16, 5 ≤ i.val → n[i] = 0

theorem inv_iff (s : State) :
    Inv s ↔ s.keyCnt.toNat ≤ 17 ∧ ZeroTail s.nonce ∧ ReportConsistent s.err s.rfield
      ∧ (s.ovalid = true → s.pvalid = true ∧ s.nvalid = false) := by
  simp only [Safety.Inv, ZeroTail, ReportConsistent, and_assoc]

theorem reportConsistent_zero {e : Byte} (he : e &&& 0xE0 = 0) (h1 : e &&& 0x01 = 0) : ReportConsistent e 0 :=
  ⟨he, rfl, iff_of_false (fun h => h rfl) (fun h => h h1)⟩

theorem reportConsistent_none : ReportConsistent 0x00 0x00 := reportConsistent_zero (by decide) (by decide)

/-- R177. -/
theorem reportConsistent_illegal : ReportConsistent 0x10 0x00 := reportConsistent_zero (by decide) (by decide)

/-- R32: the integer fields 0 and 2 never fail and there is no field 7. -/
theorem rangeMask_fieldValues_reserved (s : State) : rangeMask (fieldValues s) &&& 0x85 = 0 := by
  rw [rangeMask, laneFits_integer 0 rfl s, laneFits_integer 2 rfl s]
  generalize laneFits 1 (fieldValues s 1) = b1
  generalize laneFits 3 (fieldValues s 3) = b3
  generalize laneFits 4 (fieldValues s 4) = b4
  generalize laneFits 5 (fieldValues s 5) = b5
  generalize laneFits 6 (fieldValues s 6) = b6
  revert b1 b3 b4 b5 b6
  decide

/-- R115, R160: what the range check reports is consistent, whatever else `ERR` says. -/
theorem reportConsistent_rangeCheck (s : State) (k w q c : Bool) :
    ReportConsistent (errByte (anyFail (fieldValues s)) k w q c) (rangeMask (fieldValues s)) := by
  obtain ⟨_, _, _, _, _, hreserved⟩ := errByte_bits (anyFail (fieldValues s)) k w q c
  exact ⟨hreserved, rangeMask_fieldValues_reserved s, by rw [ne_eq, rangeMask_eq_zero, ne_eq, errByte_and_one]⟩

theorem zeroTail_buildNonce (m : BitVec 16) (r : Byte) (i : BitVec 16) : ZeroTail (buildNonce m r i) := by
  rintro ⟨j, hj⟩ (h5 : 5 ≤ j)
  interval_cases j <;> rfl

theorem inv_reset : Inv State.reset := by decide

/-! ## Every operation keeps `Inv` -/

section
variable {s : State} (hs : Inv s)
include hs

theorem inv_deliver (rest : List HostEvent) (b : Option Byte) : Inv (deliver rest b s) := hs

theorem inv_pushKey (v : Byte) : Inv (pushKey v s) := by
  obtain ⟨hcnt, hrest⟩ := hs
  rcases pushKey_cases v s with ⟨hlt, h⟩ | ⟨_, h⟩ <;> rw [h] <;> refine ⟨?_, hrest⟩
  · show (s.keyCnt + 1).toNat ≤ 17
    rw [BitVec.toNat_add]
    exact (Nat.mod_le _ _).trans (Nat.succ_le_succ hlt.le)
  · exact (by decide : (17 : BitVec 5).toNat ≤ 17)

theorem inv_packState : Inv (packState s) := by
  obtain ⟨hcnt, htail, _, _⟩ := (inv_iff s).1 hs
  obtain ⟨herr, hrf⟩ := packState_report s
  refine (inv_iff _).2 ⟨?_, ?_, ?_, by simp⟩
  · rw [packState_frame]; exact hcnt
  · rw [packState_frame]; exact htail
  · rw [herr, hrf]; exact reportConsistent_rangeCheck s ..

theorem inv_nonceState : Inv (nonceState s) := by
  obtain ⟨hcnt, _⟩ := hs
  exact (inv_iff _).2 ⟨hcnt, zeroTail_buildNonce _ _ _, reportConsistent_none, by simp⟩

theorem inv_cryptState (enc : Block → Block → Block) : Inv (cryptState enc s) := by
  obtain ⟨hcnt, htail, _, _⟩ := (inv_iff s).1 hs
  obtain ⟨herr, hrf⟩ := cryptState_report enc s
  refine (inv_iff _).2 ⟨?_, ?_, ?_, fun ho => ?_⟩
  · rw [cryptState_frame]; exact hcnt
  · rw [cryptState_frame]; exact htail
  · obtain ⟨_, _, _, _, _, hreserved⟩ := errByte_bits false (!keyOk s) false (!(s.pvalid && s.nvalid)) false
    rw [herr, hrf]
    exact reportConsistent_zero hreserved ((errByte_and_one ..).2 rfl)
  · have hok : (cryptState enc s).err = 0 := (cryptState_ovalid enc s).1 ho
    obtain ⟨_, hp, _⟩ := (cryptState_err_eq_zero enc s).1 hok
    refine ⟨(cryptState_pvalid enc s).trans hp, Bool.eq_false_iff.2 fun hn => ?_⟩
    obtain ⟨_, hne⟩ := (cryptState_nvalid enc s).1 hn
    exact hne hok

theorem inv_encodeState (enc : Block → Block → Block) : Inv (encodeState enc s) := by
  obtain ⟨hcnt, htail, _, _⟩ := (inv_iff s).1 hs
  obtain ⟨herr, hrf⟩ := encodeState_report enc s
  refine (inv_iff _).2 ⟨?_, ?_, ?_, fun ho => ⟨?_, encodeState_nvalid enc s⟩⟩
  · rw [encodeState_frame]; exact hcnt
  · rcases encodeState_cases enc s with ⟨_, h⟩ | ⟨_, _, h⟩ <;> rw [h]
    · exact htail
    · exact zeroTail_buildNonce _ _ _
  · rw [herr, hrf]; exact reportConsistent_rangeCheck s ..
  · exact (encodeState_pvalid enc s).2 ((encodeState_ovalid enc s).1 ho)

theorem inv_keyclrState : Inv (keyclrState s) := by
  obtain ⟨_, htail, _, hflags⟩ := (inv_iff s).1 hs
  exact (inv_iff _).2 ⟨Nat.zero_le _, htail, reportConsistent_none, hflags⟩

theorem inv_srstState : Inv (srstState s) := by
  obtain ⟨hcnt, _⟩ := hs
  obtain ⟨_, hreset⟩ := inv_reset
  exact ⟨hcnt, hreset⟩

theorem inv_commandState (i : Instr) : Inv (commandState i s) := by
  cases i with
  | nop => exact hs
  | pack => exact inv_packState hs
  | nonce => exact inv_nonceState hs
  | crypt => exact inv_cryptState hs _
  | encode => exact inv_encodeState hs _
  | keyclr => exact inv_keyclrState hs
  | srst => exact inv_srstState hs

/-- R173: a write to `PBUF` takes the record's validity with it. -/
theorem inv_writePbuf (p : Payload) : Inv { s with pbuf := p, pvalid := true, ovalid := false } := by
  obtain ⟨hcnt, htail, hreport, _⟩ := (inv_iff s).1 hs
  exact (inv_iff _).2 ⟨hcnt, htail, hreport, nofun⟩

theorem inv_writeWindow_register {a : Addr} (v : Byte) (h4 : a ≠ 0x04) (hpbuf : ∀ i : Fin 15, a ≠ addr 0x30 i) :
    Inv (writeWindow a v s) := by
  rw [writeWindow_register s v h4 hpbuf]
  exact hs

theorem inv_illegal : Inv (raiseError 0x10 0x00 false false false s) := by
  obtain ⟨hcnt, htail, _, hflags⟩ := (inv_iff s).1 hs
  exact (inv_iff _).2 ⟨hcnt, htail, reportConsistent_illegal, by simpa using hflags⟩

end

/-- Settles O52, event by event. -/
theorem stepKeepsInv : Obligations.StepKeepsInv := by
  intro s t hs h
  cases stepsTo_of_step h with
  | idle => exact hs
  | reset => exact inv_deliver inv_reset _ _
  | read => exact inv_deliver hs _ _
  | keyin => exact inv_pushKey (inv_deliver hs _ _) _
  | pbuf => exact inv_writePbuf (inv_deliver hs _ _) _
  | register _ _ h4 hpbuf => exact inv_writeWindow_register (inv_deliver hs _ _) _ h4 hpbuf
  | command i => exact inv_commandState (inv_deliver hs _ _) i
  | illegal => exact inv_illegal (inv_deliver hs _ _)

/-- Settles O51. -/
theorem invHoldsAtReset : Obligations.InvHoldsAtReset := inv_reset

/-! ## The record (R29, R163) -/

theorem recordInv_of_not_ovalid {s : State} (h : s.ovalid = false) : RecordInv s := by
  intro ho
  rw [h] at ho
  contradiction

/-- The record depends on `OBUF`, `PBUF`, `NONCE` and its flag alone. -/
theorem recordInv_congr {s t : State} (hs : RecordInv s) (hobuf : t.obuf = s.obuf) (hpbuf : t.pbuf = s.pbuf)
    (hnonce : t.nonce = s.nonce) (hovalid : t.ovalid = s.ovalid) : RecordInv t := by
  rwa [RecordInv, hobuf, hpbuf, hnonce, hovalid]

theorem recordInv_deliver {s : State} (hs : RecordInv s) (rest : List HostEvent) (b : Option Byte) :
    RecordInv (deliver rest b s) :=
  recordInv_congr hs rfl rfl rfl rfl

theorem recordInv_cryptState (s : State) : RecordInv (cryptState Config.blockEnc s) := by
  rcases cryptState_cases Config.blockEnc s with ⟨_, h⟩ | ⟨_, _, _, h⟩ <;> rw [h]
  · exact recordInv_of_not_ovalid (by simp)
  · exact fun _ => ⟨s.key, rfl⟩

theorem recordInv_encodeState (s : State) : RecordInv (encodeState Config.blockEnc s) := by
  rcases encodeState_cases Config.blockEnc s with ⟨_, h⟩ | ⟨_, _, h⟩ <;> rw [h]
  · exact recordInv_of_not_ovalid (by simp)
  · exact fun _ => ⟨s.key, rfl⟩

theorem recordInv_commandState {s : State} (hs : RecordInv s) (i : Instr) : RecordInv (commandState i s) := by
  cases i with
  | nop => exact hs
  | pack => exact recordInv_of_not_ovalid (packState_ovalid s)
  | nonce => exact recordInv_of_not_ovalid (nonceState_ovalid s)
  | crypt => exact recordInv_cryptState s
  | encode => exact recordInv_encodeState s
  | keyclr => exact recordInv_congr hs rfl rfl rfl rfl
  | srst => exact recordInv_of_not_ovalid (srstState_ovalid s)

/-- Settles O53: the commands that set `OVALID` write the record whole, and every other event keeps it or clears the flag. -/
theorem validRecordIsSelfConsistent : Obligations.ValidRecordIsSelfConsistent := by
  refine ⟨recordInv_of_not_ovalid rfl, fun s t hs h => ?_⟩
  cases stepsTo_of_step h with
  | idle => exact hs
  | reset => exact recordInv_of_not_ovalid rfl
  | read => exact recordInv_deliver hs _ _
  | keyin => rw [pushKey_frame]; exact recordInv_congr hs rfl rfl rfl rfl
  | pbuf => exact recordInv_of_not_ovalid rfl
  | register _ _ h4 hpbuf => rw [writeWindow_register _ _ h4 hpbuf]; exact recordInv_congr hs rfl rfl rfl rfl
  | command i => exact recordInv_commandState (recordInv_deliver hs _ _) i
  | illegal => exact recordInv_congr hs rfl rfl rfl (by simp)

/-! ## Reset (R45) -/

/-- Settles O47: the stored locations by the definition of `State.reset`, `OUT` byte by byte through the record. -/
theorem resetValues : Obligations.ResetValues := by
  have hout : (List.ofFn fun i : Fin 21 => readWindow State.reset (addr 0x50 i))
      = Config.recordType :: List.replicate 20 0 := by
    simp only [addr, readWindow_out]
    rfl
  exact ⟨rfl, rfl, rfl, rfl, rfl, rfl, rfl, rfl, rfl, rfl, rfl, rfl, rfl, rfl, rfl, rfl, rfl, rfl, rfl, rfl, by decide, rfl,
    hout⟩

end Sys2Proof.Machine
end

section
/-!
PROOFS. What each step may change (R20, R23, R24, R27 to R29, R31 to R33, R35): the report, the validity flags, the key and the
operand registers.
-/

namespace Sys2Proof.Machine

open Sys2Proof.Safety

/-! ## The step answers (R20, R33, R199) -/

/-- Settles O3. -/
theorem commandWriteExecutes : Obligations.CommandWriteExecutes :=
  fun _ _ => ⟨fun _ _ hp hd => step_of_command hp hd, fun hp => step_of_read hp⟩

/-- Settles O5: one equation for each kind of event, and no command faults or is refused. -/
theorem everyStepHasANextState : Obligations.EveryStepHasANextState := by
  intro s
  match hp : s.pending with
  | [] => exact ⟨_, step_of_idle hp⟩
  | .reset :: rest => exact ⟨_, step_of_reset hp⟩
  | .read a :: rest => exact ⟨_, step_of_read hp⟩
  | .write a v :: rest =>
    by_cases ha : a = 0x00
    · subst ha
      cases hd : decode v with
      | ok i => exact ⟨_, (step_of_command hp hd).trans (exec_eq i _)⟩
      | error e => exact ⟨_, step_of_illegal hp hd⟩
    · exact ⟨_, step_of_write hp ha⟩

/-! ## The report (R31, R32, R198) -/

/-- Settles O27: what is no command keeps the report, and of the commands only `NOP` is let in. -/
theorem errChangesOnlyByCommandsAndReset : Obligations.ErrChangesOnlyByCommandsAndReset := by
  intro s t h hruns hreset
  cases stepsTo_of_step h with
  | idle | read | pbuf => exact ⟨rfl, rfl⟩
  | reset hp => exact absurd ((delivers_iff hp _).2 rfl) hreset
  | keyin => rw [pushKey_frame]; exact ⟨rfl, rfl⟩
  | register _ _ h4 hpbuf => rw [writeWindow_register _ _ h4 hpbuf]; exact ⟨rfl, rfl⟩
  | command i hp =>
    have hcode : encode i = 0x00 := hruns _ ((runs_iff hp _).2 rfl)
    cases i with
    | nop => exact ⟨rfl, rfl⟩
    | pack | nonce | crypt | encode | keyclr | srst => exact absurd hcode (by decide)
  | illegal hp hc =>
    have hcode := hruns _ ((runs_iff hp _).2 rfl)
    exact absurd hc (by simp [hcode])

/-! ## The validity flags (R27 to R29) -/

/-- R27 to R29: the next step runs no command that writes a flag, writes no byte of `PBUF`, and delivers no reset. -/
structure Quiet (s : State) : Prop where
  pack : ¬Runs s 0x01#8
  nonce : ¬Runs s 0x02#8
  crypt : ¬Runs s 0x03#8
  encode : ¬Runs s 0x04#8
  srst : ¬Runs s 0x06#8
  pbuf : ¬WritesPbuf s
  reset : ¬Delivers s .reset

/-- A step as far as the flags go; `flagStep_of_step` ties it to `step`. -/
inductive FlagStep (s : State) : State → Prop where
  /-- R27 to R29: nothing else changes a flag. -/
  | quiet {t : State} (hq : Quiet s) (hp : t.pvalid = s.pvalid) (hn : t.nvalid = s.nvalid) (ho : t.ovalid = s.ovalid) :
      FlagStep s t
  | reset {rest : List HostEvent} (hp : s.pending = .reset :: rest) : FlagStep s (hardwareReset rest)
  | pbuf {t : State} {i : Fin 15} {v : Byte} {rest : List HostEvent} (hp : s.pending = .write (addr 0x30 i) v :: rest)
      (hpv : t.pvalid = true) (hn : t.nvalid = s.nvalid) (ho : t.ovalid = false) : FlagStep s t
  | command (i : Instr) {rest : List HostEvent} (hp : s.pending = .write 0x00 (Sys2Proof.encode i) :: rest)
      (hnop : i ≠ .nop) (hkeyclr : i ≠ .keyclr) : FlagStep s (commandState i (deliver rest none s))

section
variable {s : State} {rest : List HostEvent} {a : Addr} {v : Byte}

theorem not_writesPbuf_of_write (hp : s.pending = .write a v :: rest) (ha : ∀ i : Fin 15, a ≠ addr 0x30 i) :
    ¬WritesPbuf s := by
  rw [writesPbuf_iff hp]
  exact not_exists.2 ha

theorem not_reset_of_write (hp : s.pending = .write a v :: rest) : ¬Delivers s .reset := by
  rw [delivers_iff hp]
  nofun

theorem quiet_of_no_write (hw : ∀ a v, ¬Delivers s (.write a v)) (hr : ¬Delivers s .reset) : Quiet s :=
  ⟨hw _ _, hw _ _, hw _ _, hw _ _, hw _ _, not_writesPbuf hw, hr⟩

theorem quiet_of_write (hp : s.pending = .write a v :: rest) (h0 : a ≠ 0x00) (ha : ∀ i : Fin 15, a ≠ addr 0x30 i) :
    Quiet s :=
  have hruns := not_runs_of_write hp h0
  ⟨hruns _, hruns _, hruns _, hruns _, hruns _, not_writesPbuf_of_write hp ha, not_reset_of_write hp⟩

theorem quiet_of_command {c : Byte} (hp : s.pending = .write 0x00 c :: rest) (hc : c = 0x00 ∨ c = 0x05 ∨ 7 ≤ c.toNat) :
    Quiet s := by
  have hruns (d : Byte) (hd : d ≠ 0x00 ∧ d ≠ 0x05 ∧ d.toNat < 7) : ¬Runs s d := by
    rw [runs_iff hp]
    rintro rfl
    obtain ⟨h0, h5, h7⟩ := hd
    rcases hc with h | h | h
    · exact h0 h
    · exact h5 h
    · omega
  exact ⟨hruns _ (by decide), hruns _ (by decide), hruns _ (by decide), hruns _ (by decide), hruns _ (by decide),
    not_writesPbuf_of_write hp zero_ne_addr_pbuf, not_reset_of_write hp⟩

theorem flagStep_of_step {t : State} (h : step s = .next t) : FlagStep s t := by
  cases stepsTo_of_step h with
  | idle hp =>
    have hnone := not_delivers_of_idle hp
    exact .quiet (quiet_of_no_write (fun _ _ => hnone _) (hnone _)) rfl rfl rfl
  | reset hp => exact .reset hp
  | read hp => exact .quiet (quiet_of_no_write (by simp [delivers_iff hp]) (by simp [delivers_iff hp])) rfl rfl rfl
  | keyin hp => exact .quiet (quiet_of_write hp (by decide) keyin_ne_addr_pbuf) (by simp) (by simp) (by simp)
  | pbuf hp => exact .pbuf hp rfl rfl rfl
  | register hp h0 h4 hpbuf =>
    rw [writeWindow_register _ _ h4 hpbuf]
    exact .quiet (quiet_of_write hp h0 hpbuf) rfl rfl rfl
  | command i hp =>
    cases i with
    | nop => exact .quiet (quiet_of_command hp (.inl rfl)) rfl rfl rfl
    | keyclr => exact .quiet (quiet_of_command hp (.inr (.inl rfl))) rfl rfl rfl
    | pack | nonce | crypt | encode | srst => exact .command _ hp nofun nofun
  | illegal hp hc => exact .quiet (quiet_of_command hp (.inr (.inr hc))) (by simp) (by simp) (by simp)

end

/-- What a command that writes a flag delivers, for the three statements below. -/
theorem delivers_of_command {s : State} {i : Instr} {rest : List HostEvent}
    (hp : s.pending = .write 0x00 (encode i) :: rest) :
    (∀ d, Runs s d ↔ encode i = d) ∧ ¬WritesPbuf s ∧ ¬Delivers s .reset :=
  ⟨runs_iff hp, not_writesPbuf_of_write hp zero_ne_addr_pbuf, not_reset_of_write hp⟩

/-- What a write to `PBUF` delivers. -/
theorem delivers_of_pbuf {s : State} {i : Fin 15} {v : Byte} {rest : List HostEvent}
    (hp : s.pending = .write (addr 0x30 i) v :: rest) :
    (∀ d, ¬Runs s d) ∧ WritesPbuf s ∧ ¬Delivers s .reset :=
  ⟨not_runs_of_write hp (zero_ne_addr_pbuf i).symm, (writesPbuf_iff hp).2 ⟨i, rfl⟩, not_reset_of_write hp⟩

/-- What a reset delivers. -/
theorem delivers_of_reset {s : State} {rest : List HostEvent} (hp : s.pending = .reset :: rest) :
    (∀ d, ¬Runs s d) ∧ ¬WritesPbuf s ∧ Delivers s .reset :=
  have hw (a : Addr) (v : Byte) : ¬Delivers s (.write a v) := by simp [delivers_iff hp]
  ⟨fun _ => hw _ _, not_writesPbuf hw, (delivers_iff hp _).2 rfl⟩

/-- R145: `CRYPT` reads `PVALID` and `NVALID`, and reports `E_SEQ` when either is 0. -/
theorem eSeq_of_runs_crypt {s t : State} (h : step s = .next t) (hr : Runs s 0x03)
    (hflags : s.pvalid = false ∨ s.nvalid = false) : t.err &&& 0x08 ≠ 0 := by
  obtain ⟨rest, hp⟩ := List.head?_eq_some_iff.1 hr
  rw [step_of_command hp (i := .crypt) rfl, exec_crypt, next_inj] at h
  rw [← h]
  exact (cryptState_err_and_eight _ (deliver rest none s)).2 hflags

/-- Settles O54. -/
theorem pvalidTransitions : Obligations.PvalidTransitions := by
  intro s t h
  refine ⟨?_, fun hr hp => eSeq_of_runs_crypt h hr (.inl hp)⟩
  cases flagStep_of_step h with
  | quiet hq hp => simp [hq.pack, hq.encode, hq.srst, hq.pbuf, hq.reset, hp]
  | reset hp => simp [delivers_of_reset hp]
  | pbuf hp hpv => simp [delivers_of_pbuf hp, hpv]
  | command i hp =>
    cases i with
    | nop | keyclr => contradiction
    | pack | nonce | crypt | encode | srst =>
      simp [delivers_of_command hp, encode, commandState, packState_pvalid, encodeState_pvalid]

/-- Settles O55. -/
theorem nvalidTransitions : Obligations.NvalidTransitions := by
  intro s t h
  refine ⟨?_, fun hr hn => eSeq_of_runs_crypt h hr (.inr hn)⟩
  cases flagStep_of_step h with
  | quiet hq _ hn => simp [hq.nonce, hq.crypt, hq.encode, hq.srst, hq.reset, hn]
  | reset hp => simp [delivers_of_reset hp]
  | pbuf hp _ hn => simp [delivers_of_pbuf hp, hn]
  | command i hp =>
    cases i with
    | nop | keyclr => contradiction
    | pack | nonce | crypt | encode | srst => simp [delivers_of_command hp, encode, commandState, cryptState_nvalid]

/-- Settles O56. -/
theorem ovalidTransitions : Obligations.OvalidTransitions := by
  intro s t h
  cases flagStep_of_step h with
  | quiet hq _ _ ho => simp [hq.pack, hq.nonce, hq.crypt, hq.encode, hq.srst, hq.pbuf, hq.reset, ho]
  | reset hp => simp [delivers_of_reset hp]
  | pbuf hp _ _ ho => simp [delivers_of_pbuf hp, ho]
  | command i hp =>
    cases i with
    | nop | keyclr => contradiction
    | pack | nonce | crypt | encode | srst =>
      simp [delivers_of_command hp, encode, commandState, cryptState_ovalid, encodeState_ovalid]

/-! ## The key and the operands (R23, R24, R35) -/

/-- Settles O58: every event but the three keeps both. -/
theorem keyChangesOnlyByKeyinKeyclrReset : Obligations.KeyChangesOnlyByKeyinKeyclrReset := by
  intro s t h
  contrapose!
  rintro ⟨hkeyin, hkeyclr, hreset⟩
  cases stepsTo_of_step h with
  | idle | read | pbuf | illegal => exact ⟨rfl, rfl⟩
  | reset hp => exact absurd ((delivers_iff hp _).2 rfl) hreset
  | keyin hp => exact absurd ((delivers_iff hp _).2 rfl) (hkeyin _)
  | register _ _ h4 hpbuf => rw [writeWindow_register _ _ h4 hpbuf]; exact ⟨rfl, rfl⟩
  | command i hp =>
    refine commandState_key (fun hi => ?_) _
    subst hi
    exact hkeyclr ((runs_iff hp _).2 rfl)

/-- The locations of the header and reading registers. -/
def isOperandLoc : Loc → Bool
  | .modelid _ | .readout | .iv _ | .ttg _ | .volt _ | .alarm _ | .aux _ | .curr _ | .cons _ | .soc _ => true
  | _ => false

theorem isPlainRegister_of_isOperandLoc (a : Addr) (h : isOperandLoc (locate a) = true) : isPlainRegister a := by
  revert a; exact forall_addr (by decide)

/-- R171 to R173: away from the header and reading registers a host write leaves them alone. -/
theorem writeWindow_operands {a : Addr} (ha : ¬isPlainRegister a) (v : Byte) (s : State) :
    SameReadings s (writeWindow a v s) ∧ SameHeader s (writeWindow a v s) := by
  have hloc := mt (isPlainRegister_of_isOperandLoc a) ha
  rw [writeWindow]
  cases h : locate a with
  | modelid | readout | iv | ttg | volt | alarm | aux | curr | cons | soc => exact absurd (by rw [h]; rfl) hloc
  | keyin => rw [writeLoc, pushKey_frame]; simp [SameReadings, SameHeader]
  | cmd | status | err | rfield | keycnt | rectype | pbuf | nonce | out | reserved =>
    simp [writeLoc, SameReadings, SameHeader]

/-- Settles O60: every event but the three keeps them. -/
theorem operandsChangeOnlyByHostSrstReset : Obligations.OperandsChangeOnlyByHostSrstReset := by
  intro s t h
  rw [not_imp_comm, not_or, not_or]
  rintro ⟨hwrite, hsrst, hreset⟩
  cases stepsTo_of_step h with
  | idle | read | pbuf | illegal => simp [SameReadings, SameHeader]
  | reset hp => exact absurd ((delivers_iff hp _).2 rfl) hreset
  | keyin => rw [pushKey_frame]; simp [SameReadings, SameHeader]
  | register hp =>
    exact writeWindow_operands (fun ha => hwrite ⟨_, _, (delivers_iff hp _).2 rfl, ha⟩) _ (deliver _ none s)
  | command i hp =>
    refine commandState_operands (fun hi => ?_) (deliver _ none s)
    subst hi
    exact hsrst ((runs_iff hp _).2 rfl)

end Sys2Proof.Machine
end

section
/-!
PROOFS. What the results depend on (R44, R46) and what they cannot depend on: two states that agree on a command's inputs get
the same results, and the key (R35, R202) and the hidden registers (R42) reach no host read.
-/

namespace Sys2Proof.Machine

open Sys2Proof.Safety

/-! ## Results as functions of the inputs (R44, R46) -/

theorem fieldValues_congr {s t : State} (h : SameReadings s t) : fieldValues s = fieldValues t := by
  obtain ⟨httg, hvolt, halarm, haux, hcurr, hcons, hsoc⟩ := h
  funext k
  simp only [fieldValues]
  congr 1
  fin_cases k <;> simp [fieldReg, *]

theorem keyOk_congr {s t : State} (h : s.keyCnt = t.keyCnt) : keyOk s = keyOk t := by
  simp only [keyOk, h]

/-- R115: what a `PACK` with no Range error stores. -/
theorem packState_pbuf {s : State} (h : (packState s).err &&& 0x01 = 0) :
    (packState s).pbuf = payloadOf (fieldValues s) := by
  rw [(packState_report s).1, errByte_and_one] at h
  rw [packState_of_pass h]
  rfl

/-- R145: what a successful `CRYPT` stores. -/
theorem cryptState_obuf {enc : Block → Block → Block} {s : State} (h : (cryptState enc s).err = 0) :
    (cryptState enc s).obuf = xorPayload s.pbuf (enc s.key s.nonce) := by
  obtain ⟨hk, hp, hn⟩ := (cryptState_err_eq_zero enc s).1 h
  rw [cryptState_of_ready hk hp hn]
  rfl

/-- R160: what a successful `ENCODE` stores. -/
theorem encodeState_results {enc : Block → Block → Block} {s : State} (h : (encodeState enc s).err &&& 0x03 = 0) :
    (encodeState enc s).pbuf = payloadOf (fieldValues s)
      ∧ (encodeState enc s).nonce = buildNonce s.modelId s.readout s.iv
      ∧ (encodeState enc s).obuf
        = xorPayload (payloadOf (fieldValues s)) (enc s.key (buildNonce s.modelId s.readout s.iv)) := by
  obtain ⟨hv, hk⟩ := (encodeState_err_and_three enc s).1 h
  rw [encodeState_of_pass hv hk]
  exact ⟨rfl, rfl, rfl⟩

/-- R44, R46 for `PACK`. -/
theorem packState_congr {s t : State} (hr : SameReadings s t) :
    (packState s).err = (packState t).err ∧ (packState s).rfield = (packState t).rfield
      ∧ (packState s).pvalid = (packState t).pvalid ∧ (packState s).ovalid = (packState t).ovalid
      ∧ ((packState s).err &&& 0x01 = 0 → (packState s).pbuf = (packState t).pbuf) := by
  have hv := fieldValues_congr hr
  have herr : (packState s).err = (packState t).err := by rw [(packState_report s).1, (packState_report t).1, hv]
  refine ⟨herr, ?_, ?_, ?_, fun h => ?_⟩
  · rw [(packState_report s).2, (packState_report t).2, hv]
  · rw [Bool.eq_iff_iff, packState_pvalid, packState_pvalid, herr]
  · rw [packState_ovalid, packState_ovalid]
  · rw [packState_pbuf h, packState_pbuf (herr ▸ h), hv]

/-- R44, R46 for `NONCE`. -/
theorem nonceState_congr {s t : State} (hh : SameHeader s t) :
    (nonceState s).err = (nonceState t).err ∧ (nonceState s).rfield = (nonceState t).rfield
      ∧ (nonceState s).nonce = (nonceState t).nonce ∧ (nonceState s).nvalid = (nonceState t).nvalid
      ∧ (nonceState s).ovalid = (nonceState t).ovalid := by
  obtain ⟨hmodel, hreadout, hiv⟩ := hh
  exact ⟨rfl, rfl, by simp [nonceState, hmodel, hreadout, hiv], rfl, rfl⟩

/-- R44, R46 for `CRYPT`. -/
theorem cryptState_congr (enc : Block → Block → Block) {s t : State} (hk : SameKey s t) (hnonce : s.nonce = t.nonce)
    (hpbuf : s.pbuf = t.pbuf) (hp : s.pvalid = t.pvalid) (hn : s.nvalid = t.nvalid) :
    (cryptState enc s).err = (cryptState enc t).err ∧ (cryptState enc s).rfield = (cryptState enc t).rfield
      ∧ (cryptState enc s).nvalid = (cryptState enc t).nvalid ∧ (cryptState enc s).ovalid = (cryptState enc t).ovalid
      ∧ ((cryptState enc s).err = 0x00 → (cryptState enc s).obuf = (cryptState enc t).obuf) := by
  obtain ⟨hkey, hcnt⟩ := hk
  have herr : (cryptState enc s).err = (cryptState enc t).err := by
    rw [(cryptState_report enc s).1, (cryptState_report enc t).1, keyOk_congr hcnt, hp, hn]
  refine ⟨herr, ?_, ?_, ?_, fun h => ?_⟩
  · rw [(cryptState_report enc s).2, (cryptState_report enc t).2]
  · rw [Bool.eq_iff_iff, cryptState_nvalid, cryptState_nvalid, herr, hn]
  · rw [Bool.eq_iff_iff, cryptState_ovalid, cryptState_ovalid, herr]
  · rw [cryptState_obuf h, cryptState_obuf (herr ▸ h), hpbuf, hkey, hnonce]

/-- R44, R46 for `ENCODE`. -/
theorem encodeState_congr (enc : Block → Block → Block) {s t : State} (hr : SameReadings s t) (hh : SameHeader s t)
    (hk : SameKey s t) :
    (encodeState enc s).err = (encodeState enc t).err ∧ (encodeState enc s).rfield = (encodeState enc t).rfield
      ∧ (encodeState enc s).pvalid = (encodeState enc t).pvalid ∧ (encodeState enc s).nvalid = (encodeState enc t).nvalid
      ∧ (encodeState enc s).ovalid = (encodeState enc t).ovalid
      ∧ ((encodeState enc s).err &&& 0x03 = 0 → (encodeState enc s).pbuf = (encodeState enc t).pbuf
        ∧ (encodeState enc s).nonce = (encodeState enc t).nonce ∧ (encodeState enc s).obuf = (encodeState enc t).obuf) := by
  obtain ⟨hkey, hcnt⟩ := hk
  obtain ⟨hmodel, hreadout, hiv⟩ := hh
  have hv := fieldValues_congr hr
  have herr : (encodeState enc s).err = (encodeState enc t).err := by
    rw [(encodeState_report enc s).1, (encodeState_report enc t).1, hv, keyOk_congr hcnt]
  refine ⟨herr, ?_, ?_, ?_, ?_, fun h => ?_⟩
  · rw [(encodeState_report enc s).2, (encodeState_report enc t).2, hv]
  · rw [Bool.eq_iff_iff, encodeState_pvalid, encodeState_pvalid, herr]
  · rw [encodeState_nvalid, encodeState_nvalid]
  · rw [Bool.eq_iff_iff, encodeState_ovalid, encodeState_ovalid, herr]
  · obtain ⟨hpbuf, hnonce, hobuf⟩ := encodeState_results h
    obtain ⟨hpbuf', hnonce', hobuf'⟩ := encodeState_results (herr ▸ h)
    rw [hpbuf, hpbuf', hnonce, hnonce', hobuf, hobuf', hv, hmodel, hreadout, hiv, hkey]
    exact ⟨rfl, rfl, rfl⟩

/-- Settles O35. -/
theorem resultsDependOnlyOnInputs : Obligations.ResultsDependOnlyOnInputs := by
  intro s t s' t'
  simp only [exec_eq, next_inj, commandState]
  refine ⟨?_, ?_, ?_, ?_⟩
  · rintro hr rfl rfl; exact packState_congr hr
  · rintro hh rfl rfl; exact nonceState_congr hh
  · rintro hk hnonce hpbuf hp hn rfl rfl; exact cryptState_congr _ hk hnonce hpbuf hp hn
  · rintro hr hh hk rfl rfl; exact encodeState_congr _ hr hh hk

/-! ## Two runs side by side -/

/-- A relation between two states that the port and the host's accesses keep, and that no host read can tell apart. -/
structure PortKeeps (R : State → State → Prop) : Prop where
  refl : ∀ u, R u u
  pending : ∀ {u u'}, R u u' → u'.pending = u.pending
  read : ∀ {u u'}, R u u' → ∀ a, readWindow u' a = readWindow u a
  deliver : ∀ {u u'}, R u u' → ∀ rest b, R (deliver rest b u) (deliver rest b u')
  write : ∀ {u u'}, R u u' → ∀ a v, R (writeWindow a v u) (writeWindow a v u')
  illegal : ∀ {u u'}, R u u' → R (raiseError 0x10 0x00 false false false u) (raiseError 0x10 0x00 false false false u')

/-- Related states step to related states, where the command that is run, if one is, keeps the relation. -/
theorem step_related {R : State → State → Prop} (hR : PortKeeps R) {s s' : State} (h : R s s')
    (hcommand : ∀ i, Runs s (encode i) → ∀ {u u'}, R u u' → R (commandState i u) (commandState i u')) :
    ∃ t t', step s = .next t ∧ step s' = .next t' ∧ R t t' := by
  have hpending := hR.pending h
  match hp : s.pending with
  | [] => exact ⟨_, _, step_of_idle hp, step_of_idle (hpending.trans hp), h⟩
  | .reset :: rest => exact ⟨_, _, step_of_reset hp, step_of_reset (hpending.trans hp), hR.refl _⟩
  | .read a :: rest =>
    refine ⟨_, _, step_of_read hp, step_of_read (hpending.trans hp), ?_⟩
    rw [hR.read h a]
    exact hR.deliver h _ _
  | .write a v :: rest =>
    by_cases ha : a = 0x00
    · subst ha
      cases hd : decode v with
      | ok i =>
        obtain rfl := eq_encode_of_decode hd
        refine ⟨_, _, (step_of_command hp hd).trans (exec_eq i _),
          (step_of_command (hpending.trans hp) hd).trans (exec_eq i _), ?_⟩
        exact hcommand i ((runs_iff hp _).2 rfl) (hR.deliver h _ _)
      | error e =>
        exact ⟨_, _, step_of_illegal hp hd, step_of_illegal (hpending.trans hp) hd, hR.illegal (hR.deliver h _ _)⟩
    · exact ⟨_, _, step_of_write hp ha, step_of_write (hpending.trans hp) ha, hR.write (hR.deliver h _ _) _ _⟩

/-! ## The key (R35, R202) -/

/-- The second state is the first with some other key. -/
def SameButKey (s t : State) : Prop := ∃ k : Block, t = { s with key := k }

theorem readWindow_key (s : State) (k : Block) (a : Addr) : readWindow { s with key := k } a = readWindow s a := by
  unfold readWindow
  cases locate a <;> rfl

theorem sameButKey_pushKey (s : State) (k : Block) (v : Byte) :
    SameButKey (pushKey v s) (pushKey v { s with key := k }) := by
  by_cases h : s.keyCnt.toNat < 16
  · exact ⟨k.set s.keyCnt.toNat v, by simp [pushKey, h]⟩
  · exact ⟨k, by simp [pushKey, h]⟩

theorem portKeeps_sameButKey : PortKeeps SameButKey where
  refl u := ⟨u.key, rfl⟩
  pending := by rintro u _ ⟨k, rfl⟩; rfl
  read := by rintro u _ ⟨k, rfl⟩ a; exact readWindow_key u k a
  deliver := by rintro u _ ⟨k, rfl⟩ _ _; exact ⟨k, rfl⟩
  write := by
    rintro u _ ⟨k, rfl⟩ a v
    unfold writeWindow
    cases locate a with
    | keyin => exact sameButKey_pushKey u k v
    | _ => exact ⟨k, rfl⟩
  illegal := by rintro u _ ⟨k, rfl⟩; exact ⟨k, rfl⟩

theorem packState_key (s : State) (k : Block) : packState { s with key := k } = { packState s with key := k } := by
  have hv : fieldValues { s with key := k } = fieldValues s := fieldValues_congr (by simp [SameReadings])
  cases h : anyFail (fieldValues s) with
  | true => rw [packState_of_fail h, packState_of_fail (hv ▸ h), hv]; rfl
  | false => rw [packState_of_pass h, packState_of_pass (hv ▸ h), hv]; rfl

/-- R202: `CRYPT` and `ENCODE` apart, no command carries the key anywhere. -/
theorem sameButKey_commandState {i : Instr} (hcrypt : i ≠ .crypt) (hencode : i ≠ .encode) {s t : State}
    (h : SameButKey s t) : SameButKey (commandState i s) (commandState i t) := by
  obtain ⟨k, rfl⟩ := h
  cases i with
  | crypt | encode => contradiction
  | nop | nonce | srst => exact ⟨k, rfl⟩
  | pack => exact ⟨k, packState_key s k⟩
  | keyclr => exact ⟨Vector.replicate 16 0, rfl⟩

/-- Settles O57. -/
theorem keyIsNotReadable : Obligations.KeyIsNotReadable := by
  refine fun s k => ⟨readWindow_key s k, fun hcrypt hencode => ?_⟩
  obtain ⟨t, _, hs, hs', k', rfl⟩ := step_related portKeeps_sameButKey (s := s) ⟨k, rfl⟩ fun i hi =>
    sameButKey_commandState (by rintro rfl; exact hcrypt hi) (by rintro rfl; exact hencode hi)
  exact ⟨t, k', hs, hs'⟩

/-! ## The hidden registers (R42) -/

/-- The second state is the first with some other `CTR` and `KS`. -/
def SameButHidden (s t : State) : Prop := ∃ c k : Block, t = { s with ctr := c, ks := k }

theorem readWindow_hidden (s : State) (c k : Block) (a : Addr) :
    readWindow { s with ctr := c, ks := k } a = readWindow s a := by
  unfold readWindow
  cases locate a <;> rfl

theorem pushKey_hidden (s : State) (c k : Block) (v : Byte) :
    pushKey v { s with ctr := c, ks := k } = { pushKey v s with ctr := c, ks := k } := by
  by_cases h : s.keyCnt.toNat < 16 <;> simp [pushKey, h]

theorem portKeeps_sameButHidden : PortKeeps SameButHidden where
  refl u := ⟨u.ctr, u.ks, rfl⟩
  pending := by rintro u _ ⟨c, k, rfl⟩; rfl
  read := by rintro u _ ⟨c, k, rfl⟩ a; exact readWindow_hidden u c k a
  deliver := by rintro u _ ⟨c, k, rfl⟩ _ _; exact ⟨c, k, rfl⟩
  write := by
    rintro u _ ⟨c, k, rfl⟩ a v
    unfold writeWindow
    cases locate a with
    | keyin => exact ⟨c, k, pushKey_hidden u c k v⟩
    | _ => exact ⟨c, k, rfl⟩
  illegal := by rintro u _ ⟨c, k, rfl⟩; exact ⟨c, k, rfl⟩

section
variable (s : State) (c k : Block)

theorem fieldValues_hidden : fieldValues { s with ctr := c, ks := k } = fieldValues s :=
  fieldValues_congr (by simp [SameReadings])

theorem packState_hidden : packState { s with ctr := c, ks := k } = { packState s with ctr := c, ks := k } := by
  have hv := fieldValues_hidden s c k
  cases h : anyFail (fieldValues s) with
  | true => rw [packState_of_fail h, packState_of_fail (hv ▸ h), hv]; rfl
  | false => rw [packState_of_pass h, packState_of_pass (hv ▸ h), hv]; rfl

/-- R42, R145: a successful `CRYPT` writes `CTR` and `KS` anew, and a failing one keeps them. -/
theorem sameButHidden_cryptState (enc : Block → Block → Block) :
    SameButHidden (cryptState enc s) (cryptState enc { s with ctr := c, ks := k }) := by
  rcases cryptState_cases enc s with ⟨hf, hs⟩ | ⟨hk, hp, hn, hs⟩
  · rw [hs, cryptState_of_not_ready (s := { s with ctr := c, ks := k }) hf]
    exact ⟨c, k, rfl⟩
  · rw [hs, cryptState_of_ready (s := { s with ctr := c, ks := k }) hk hp hn]
    exact ⟨_, _, rfl⟩

/-- R42, R160: as for `CRYPT`. -/
theorem sameButHidden_encodeState (enc : Block → Block → Block) :
    SameButHidden (encodeState enc s) (encodeState enc { s with ctr := c, ks := k }) := by
  have hfields := fieldValues_hidden s c k
  rcases encodeState_cases enc s with ⟨hf, hs⟩ | ⟨hv, hk, hs⟩
  · rw [hs, encodeState_of_fail (s := { s with ctr := c, ks := k }) (hfields ▸ hf), hfields]
    exact ⟨c, k, rfl⟩
  · rw [hs, encodeState_of_pass (s := { s with ctr := c, ks := k }) (hfields ▸ hv) hk, hfields]
    exact ⟨_, _, rfl⟩

end

theorem sameButHidden_commandState (i : Instr) {s t : State} (h : SameButHidden s t) :
    SameButHidden (commandState i s) (commandState i t) := by
  obtain ⟨c, k, rfl⟩ := h
  cases i with
  | nop | nonce | keyclr | srst => exact ⟨c, k, rfl⟩
  | pack => exact ⟨c, k, packState_hidden s c k⟩
  | crypt => exact sameButHidden_cryptState s c k _
  | encode => exact sameButHidden_encodeState s c k _

/-- Settles O59. -/
theorem hiddenRegistersAreNotObservable : Obligations.HiddenRegistersAreNotObservable := by
  refine fun s c k => ⟨readWindow_hidden s c k, ?_⟩
  obtain ⟨t, _, hs, hs', c', k', rfl⟩ := step_related portKeeps_sameButHidden (s := s) ⟨c, k, rfl⟩ fun i _ =>
    sameButHidden_commandState i
  exact ⟨t, c', k', hs, hs'⟩

end Sys2Proof.Machine
end

section
/-!
PROOFS. The register window as memory (20_memory.md R61, R62, R64, R65): the bytes of a word, what each kind of location does
with a read and a write, and the words written byte by byte by the `W16` and `W32` lines of R97.
-/

namespace Sys2Proof.Machine

open Sys2Proof.Safety

/-! ## The bytes of a word (R61, R62) -/

/-- R64: a byte write has no effect on top of itself. -/
theorem setByteOf_setByteOf_same {w : Nat} (r : BitVec w) (i : Nat) (v : Byte) :
    setByteOf (setByteOf r i v) i v = setByteOf r i v := by
  simp only [setByteOf]
  generalize ~~~((0xFF#8).zeroExtend w <<< (8 * i)) = keep
  generalize v.zeroExtend w <<< (8 * i) = byte
  ext j hj
  simp only [BitVec.getElem_or, BitVec.getElem_and]
  cases r[j] <;> cases keep[j] <;> cases byte[j] <;> rfl

/-- R61: byte `i` of a number is its digit `i` to base 256. -/
theorem byteOf_ofNat {w : Nat} (v i : Nat) (hi : 8 * i + 8 ≤ w) :
    byteOf (BitVec.ofNat w v) i = BitVec.ofNat 8 (v / 256 ^ i) := by
  have hpow : 256 ^ i = 2 ^ (8 * i) := by rw [pow_mul]; norm_num
  apply BitVec.eq_of_getLsbD_eq
  intro j hj
  rw [getLsbD_byteOf, BitVec.getLsbD_ofNat, BitVec.getLsbD_ofNat, hpow, Nat.testBit_div_two_pow, Nat.add_comm]
  simp [hj, show j + 8 * i < w by omega]

/-- A word that agrees with `t` below byte `k`, with byte `k` of `t` written to it, agrees with `t` below byte `k + 1`. -/
theorem byteOf_setByteOf_of_agree {w k : Nat} {r t : BitVec w} (hk : 8 * k + 8 ≤ w)
    (hlow : ∀ j < k, byteOf r j = byteOf t j) : ∀ j < k + 1, byteOf (setByteOf r k (byteOf t k)) j = byteOf t j := by
  intro j hj
  rw [byteOf_setByteOf r k j _ hk]
  split
  case isTrue h => rw [h]
  case isFalse h => exact hlow j (by omega)

/-! ## Locations and addresses (R21, R65) -/

/-- R21: the address map takes the address of a location back to it. -/
theorem locate_locAddr (l : Loc) : locate (BitVec.ofNat 7 (locAddr l)) = l := by
  cases l with
  | cmd | status | err | rfield | keyin | keycnt | rectype | readout | reserved => rfl
  | modelid i | iv i | ttg i | volt i | alarm i | aux i | curr i | cons i | soc i | pbuf i | nonce i | out i =>
    revert i; decide

/-- R65: the locations with no contents a read can return. -/
def readsZero : Loc → Bool
  | .cmd | .keyin | .reserved => true
  | _ => false

/-- R65: the locations that ignore a write. -/
def ignoresWrites : Loc → Bool
  | .status | .err | .rfield | .keycnt | .rectype | .nonce _ | .out _ | .reserved => true
  | _ => false

theorem readLoc_of_readsZero {l : Loc} (h : readsZero l = true) (s : State) : readLoc s l = 0 := by
  cases l with
  | cmd | keyin | reserved => rfl
  | _ => contradiction

theorem writeLoc_of_ignoresWrites {l : Loc} (h : ignoresWrites l = true) (v : Byte) (s : State) : writeLoc v s l = s := by
  cases l with
  | status | err | rfield | keycnt | rectype | nonce | out | reserved => rfl
  | _ => contradiction

theorem readsZero_locate (a : Addr) (h : isReserved a ∨ a.toNat = 0x00 ∨ a.toNat = 0x04) :
    readsZero (locate a) = true := by
  revert a; exact forall_addr (by decide)

theorem ignoresWrites_locate (a : Addr) (h : isReserved a ∨ isReadOnly a) : ignoresWrites (locate a) = true := by
  revert a; exact forall_addr (by decide)

/-! ## Reserved and read-only locations (R30, R35, R65) -/

theorem step_of_ignored_write {s : State} {a : Addr} {v : Byte} {rest : List HostEvent}
    (hp : s.pending = .write a v :: rest) (ha : ignoresWrites (locate a) = true) :
    step s = .next (deliver rest none s) := by
  have h0 : a ≠ 0x00 := by rintro rfl; exact absurd ha (by decide)
  rw [step_of_write hp h0, writeWindow, writeLoc_of_ignoresWrites ha]

/-- R30: bits 7:4 of `STATUS` are reserved. -/
theorem statusByte_reserved (s : State) : statusByte s &&& 0xF0 = 0 := by
  rw [statusByte]
  generalize keyOk s = k
  generalize s.pvalid = p
  generalize s.nvalid = n
  generalize s.ovalid = o
  revert k p n o
  decide

/-- R35: bits 7:5 of `KEYCNT` are reserved. -/
theorem keyCnt_reserved (c : BitVec 5) : c.zeroExtend 8 &&& 0xE0 = 0 := by
  obtain ⟨n⟩ := c
  revert n
  decide

/-- Settles O44: what each location does, and the reserved bits byte by byte. -/
theorem reservedAndReadOnlyLocations : Obligations.ReservedAndReadOnlyLocations := by
  intro s
  refine ⟨fun a ha => readLoc_of_readsZero (readsZero_locate a ha) s,
    fun a v rest hp ha => step_of_ignored_write hp (ignoresWrites_locate a ha),
    statusByte_reserved s, keyCnt_reserved s.keyCnt, fun hs => ?_⟩
  obtain ⟨_, _, ⟨herr, hrf, _⟩, _⟩ := (inv_iff s).1 hs
  have hrf' : s.rfield &&& 0x80 = 0 :=
    calc s.rfield &&& 0x80 = s.rfield &&& 0x85 &&& 0x80 := by rw [BitVec.and_assoc]; rfl
      _ = 0 := by rw [hrf]; rfl
  exact ⟨herr, hrf'⟩

/-! ## Writing the same byte twice (R64) -/

theorem writeLoc_idem {l : Loc} (hl : l ≠ .keyin) (v : Byte) (s : State) :
    writeLoc v (writeLoc v s l) l = writeLoc v s l := by
  cases l with
  | keyin => contradiction
  | cmd | status | err | rfield | keycnt | rectype | readout | nonce | out | reserved => rfl
  | modelid | iv | ttg | volt | alarm | aux | curr | cons | soc => simp only [writeLoc, setByteOf_setByteOf_same]
  | pbuf => simp only [writeLoc, Vector.set_set]

/-- A write to the window and the port's own fields do not meet (log 2). -/
theorem writeWindow_deliver (a : Addr) (v : Byte) (rest : List HostEvent) (b : Option Byte) (s : State) :
    writeWindow a v (deliver rest b s) = deliver rest b (writeWindow a v s) := by
  rw [writeWindow, writeWindow]
  cases locate a with
  | keyin => by_cases h : s.keyCnt.toNat < 16 <;> simp [writeLoc, pushKey, deliver, h]
  | _ => rfl

/-- R64, `KEYIN` apart. -/
theorem writeWindow_idem {a : Addr} (h4 : a ≠ 0x04) (v : Byte) (s : State) :
    writeWindow a v (writeWindow a v s) = writeWindow a v s :=
  writeLoc_idem (mt (locate_eq_keyin a).1 h4) v s

/-- Settles O45: the port's fields apart, the second write meets the window as the first one left it. -/
theorem writesAreIdempotent : Obligations.WritesAreIdempotent := by
  intro s t a v rest hp h0 h4 h
  rw [step_of_write hp h0, next_inj, writeWindow_deliver] at h
  subst h
  rw [step_of_write rfl h0, writeWindow_deliver, writeWindow_deliver, writeWindow_idem h4]
  rfl

/-! ## Words written byte by byte (R61, R97) -/

/-- R171 to R173, R65: a write to the address of a location, the command port apart. -/
theorem step_of_write_locAddr {s : State} {l : Loc} {v : Byte} {rest : List HostEvent}
    (hp : s.pending = .write (BitVec.ofNat 7 (locAddr l)) v :: rest) (hl : l ≠ .cmd) :
    step s = .next (writeLoc v (deliver rest none s) l) := by
  have h0 : BitVec.ofNat 7 (locAddr l) ≠ 0x00 := by rwa [ne_eq, ← locate_eq_cmd, locate_locAddr]
  rw [step_of_write hp h0, writeWindow, locate_locAddr]

/-- R21, R61: `put` stores a word in the register whose `n` bytes stand at the addresses from `base` on. -/
structure WordRegister {w : Nat} (base n : Nat) (put : BitVec w → State → State) : Prop where
  width : w = 8 * n
  stored : ∀ s, ∃ r, put r s = s
  pending : ∀ r s, (put r s).pending = s.pending
  /-- R62. -/
  write : ∀ (i : Fin n) {v : Byte} {rest : List HostEvent} {r : BitVec w} {s : State},
    (put r s).pending = .write (addr base i) v :: rest →
      step (put r s) = .next (put (setByteOf r i v) (deliver rest none s))

namespace WordRegister

variable {w base : Nat} {put : BitVec w → State → State}

/-- R97: the write of byte `k`, with the bytes below it in place, puts byte `k` in place and leaves the rest to come. -/
theorem step_writeBytes {n : Nat} (hreg : WordRegister base n put) {v m k : Nat} {r : BitVec w} {s : State} (hk : k < n)
    (hp : s.pending = writeBytes (base + k) (v / 256 ^ k) (m + 1))
    (hlow : ∀ j < k, byteOf r j = byteOf (BitVec.ofNat w v) j) :
    ∃ r', step (put r s) = .next (put r' (deliver (writeBytes (base + (k + 1)) (v / 256 ^ (k + 1)) m) none s))
      ∧ ∀ j < k + 1, byteOf r' j = byteOf (BitVec.ofNat w v) j := by
  have hw := hreg.width
  have hstep := hreg.write ⟨k, hk⟩ ((hreg.pending r s).trans hp)
  rw [← byteOf_ofNat (w := w) v k (by omega), Nat.div_div_eq_div_mul, ← pow_succ] at hstep
  exact ⟨_, hstep, byteOf_setByteOf_of_agree (by omega) hlow⟩

/-- R97: from byte `k` on, with the bytes below it in place, the writes still to come make the whole word. -/
theorem after_writeBytes {n : Nat} (hreg : WordRegister base n put) {v m k : Nat} {r : BitVec w} {s : State}
    (hk : k + (m + 1) = n) (hp : s.pending = writeBytes (base + k) (v / 256 ^ k) (m + 1))
    (hlow : ∀ j < k, byteOf r j = byteOf (BitVec.ofNat w v) j) :
    after (m + 1) (put r s) = .next (put (BitVec.ofNat w v) (deliver [] none s)) := by
  induction m generalizing k r s with
  | zero =>
    obtain ⟨r', hstep, hlow'⟩ := hreg.step_writeBytes (by omega) hp hlow
    have hword : r' = BitVec.ofNat w v := eq_of_byteOf r' _ n hreg.width fun j hj => hlow' j (by omega)
    rw [after_succ 0 hstep, hword]
    rfl
  | succ m ih =>
    obtain ⟨r', hstep, hlow'⟩ := hreg.step_writeBytes (by omega) hp hlow
    rw [after_succ (m + 1) hstep]
    exact ih (by omega) rfl hlow'

/-- R61, R97: the `n` bytes of a value, low byte first, make that value in the register. -/
theorem after_line {m : Nat} (hreg : WordRegister base (m + 1) put) {s : State} {v : Nat}
    (hp : s.pending = writeBytes base v (m + 1)) :
    after (m + 1) s = .next (put (BitVec.ofNat w v) (deliver [] none s)) := by
  obtain ⟨r, hr⟩ := hreg.stored s
  have h := hreg.after_writeBytes (k := 0) (r := r) (Nat.zero_add _) (by simpa using hp) nofun
  rwa [hr] at h

end WordRegister

/-! The nine 16-bit and 32-bit registers of R21, each from the location of its bytes. -/

theorem wordRegister_modelId : WordRegister 0x08 2 fun r s => { s with modelId := r } :=
  ⟨rfl, fun s => ⟨s.modelId, rfl⟩, fun _ _ => rfl, fun i _ _ _ _ hp => step_of_write_locAddr (l := .modelid i) hp nofun⟩

theorem wordRegister_iv : WordRegister 0x0C 2 fun r s => { s with iv := r } :=
  ⟨rfl, fun s => ⟨s.iv, rfl⟩, fun _ _ => rfl, fun i _ _ _ _ hp => step_of_write_locAddr (l := .iv i) hp nofun⟩

theorem wordRegister_rTtg : WordRegister 0x10 2 fun r s => { s with rTtg := r } :=
  ⟨rfl, fun s => ⟨s.rTtg, rfl⟩, fun _ _ => rfl, fun i _ _ _ _ hp => step_of_write_locAddr (l := .ttg i) hp nofun⟩

theorem wordRegister_rAlarm : WordRegister 0x18 2 fun r s => { s with rAlarm := r } :=
  ⟨rfl, fun s => ⟨s.rAlarm, rfl⟩, fun _ _ => rfl, fun i _ _ _ _ hp => step_of_write_locAddr (l := .alarm i) hp nofun⟩

theorem wordRegister_rVolt : WordRegister 0x14 4 fun r s => { s with rVolt := r } :=
  ⟨rfl, fun s => ⟨s.rVolt, rfl⟩, fun _ _ => rfl, fun i _ _ _ _ hp => step_of_write_locAddr (l := .volt i) hp nofun⟩

theorem wordRegister_rAux : WordRegister 0x1C 4 fun r s => { s with rAux := r } :=
  ⟨rfl, fun s => ⟨s.rAux, rfl⟩, fun _ _ => rfl, fun i _ _ _ _ hp => step_of_write_locAddr (l := .aux i) hp nofun⟩

theorem wordRegister_rCurr : WordRegister 0x20 4 fun r s => { s with rCurr := r } :=
  ⟨rfl, fun s => ⟨s.rCurr, rfl⟩, fun _ _ => rfl, fun i _ _ _ _ hp => step_of_write_locAddr (l := .curr i) hp nofun⟩

theorem wordRegister_rCons : WordRegister 0x24 4 fun r s => { s with rCons := r } :=
  ⟨rfl, fun s => ⟨s.rCons, rfl⟩, fun _ _ => rfl, fun i _ _ _ _ hp => step_of_write_locAddr (l := .cons i) hp nofun⟩

theorem wordRegister_rSoc : WordRegister 0x28 4 fun r s => { s with rSoc := r } :=
  ⟨rfl, fun s => ⟨s.rSoc, rfl⟩, fun _ _ => rfl, fun i _ _ _ _ hp => step_of_write_locAddr (l := .soc i) hp nofun⟩

/-- Settles O46, register by register. -/
theorem wordWritesAreLittleEndian : Obligations.WordWritesAreLittleEndian := fun _ _ =>
  ⟨wordRegister_modelId.after_line, wordRegister_iv.after_line, wordRegister_rTtg.after_line,
    wordRegister_rAlarm.after_line, wordRegister_rVolt.after_line, wordRegister_rAux.after_line,
    wordRegister_rCurr.after_line, wordRegister_rCons.after_line, wordRegister_rSoc.after_line⟩

end Sys2Proof.Machine
end

section
/-!
PROOFS. The encodings of 30_encoding.md: the command codes (R80, R81), a byte string and its integer (R10, R93), and
the payload of a successful `PACK` bit by bit (R88).
-/

namespace Sys2Proof.Machine

open Sys2Proof.Laws

/-! ## The command codes (R80, R81) -/

/-- R80, R81: the rows of the table, taken together. -/
theorem code_matches_table (i : Instr) : CodeMatchesTable.Statement i := by
  cases i with
  | nop => exact CodeMatchesTable.nop
  | pack => exact CodeMatchesTable.pack
  | nonce => exact CodeMatchesTable.nonce
  | crypt => exact CodeMatchesTable.crypt
  | encode => exact CodeMatchesTable.encode
  | keyclr => exact CodeMatchesTable.keyclr
  | srst => exact CodeMatchesTable.srst

@[simp] theorem decode_encode (i : Instr) : decode (encode i) = .ok i := (code_matches_table i).1

theorem encode_lt_seven (i : Instr) : (encode i).toNat < 7 := (code_matches_table i).2

theorem decode_eq_ok_iff (c : Byte) (i : Instr) : decode c = .ok i ↔ encode i = c :=
  ⟨fun h => (eq_encode_of_decode h).symm, fun h => h ▸ decode_encode i⟩

/-- R95 (a): from 0x07 on the whole byte differs from every code. -/
theorem decode_of_seven_le {c : Byte} (h : 7 ≤ c.toNat) : decode c = .error (.illegalCommand c) := by
  have hne (i : Instr) : c ≠ encode i := fun hc => (hc ▸ h).not_gt (encode_lt_seven i)
  exact (if_neg (hne .nop)).trans <| (if_neg (hne .pack)).trans <| (if_neg (hne .nonce)).trans <|
    (if_neg (hne .crypt)).trans <| (if_neg (hne .encode)).trans <| (if_neg (hne .keyclr)).trans <| if_neg (hne .srst)

/-- Settles O1: `decode` inverts `encode`, and the codes are the bytes below 0x07. -/
theorem decodeAcceptsExactlyTheCodes : Obligations.DecodeAcceptsExactlyTheCodes :=
  fun c => ⟨decode_eq_ok_iff c, seven_le_of_decode_error, decode_of_seven_le⟩

/-- Settles O2: the seven rows of the table, and the first byte after them. -/
theorem commandBytesDecode : Obligations.CommandBytesDecode :=
  ⟨decode_encode .nop, decode_encode .pack, decode_encode .nonce, decode_encode .crypt, decode_encode .encode,
    decode_encode .keyclr, decode_encode .srst, decode_of_seven_le (by decide)⟩

/-! ## A byte string and the integer it encodes (R10, R93) -/

/-- R10: reading `w` bits as two's complement undoes the reduction modulo `2 ^ w` on the integers that fit. -/
theorem sintOf_emod {w : Nat} (hw : 0 < w) {v : Int} (h : fitsS v w = true) : sintOf w (v % 2 ^ w).toNat = v := by
  obtain ⟨hlo, hhi⟩ := (fitsS_iff v w).1 h
  have hhalf : (2 : Int) * 2 ^ (w - 1) = 2 ^ w := mul_pow_sub_one hw.ne' 2
  have hcast : (((v % 2 ^ w).toNat : Nat) : Int) = v % 2 ^ w :=
    Int.toNat_of_nonneg (Int.emod_nonneg v (by positivity))
  have hlt : (v % 2 ^ w).toNat < 2 ^ (w - 1) ↔ v % 2 ^ w < 2 ^ (w - 1) := by
    rw [← hcast]; norm_cast
  simp only [sintOf, hlt, hcast]
  rcases lt_or_ge v 0 with hneg | hpos
  · have hmod : v % 2 ^ w = v + 2 ^ w := by
      rw [← Int.add_emod_right, Int.emod_eq_of_lt (by omega) (by omega)]
    rw [hmod, if_neg (by omega)]
    omega
  · rw [Int.emod_eq_of_lt hpos (by omega), if_pos (by omega)]

/-- R93: reading back the encoding of an integer that fits. -/
theorem sintOf_uintLE_le {n : Nat} (hn : 0 < n) {v : Int} (h : fitsS v (8 * n) = true) :
    sintOf (8 * n) (uintLE (le n v).toList) = v := by
  rw [uintLE_le, sintOf_emod (by omega) h]

/-- R10: the two readings of a word differ by a multiple of `2 ^ w`. -/
theorem ofInt_sintOf (w u : Nat) : BitVec.ofInt w (sintOf w u) = BitVec.ofNat w u := by
  rw [← BitVec.ofInt_natCast, ← BitVec.toInt_inj, BitVec.toInt_ofInt, BitVec.toInt_ofInt, sintOf]
  split
  · rfl
  · exact_mod_cast Int.sub_bmod_right u (2 ^ w)

/-- R10: byte `i` of a little-endian string is digit `i` of its value to base 256. -/
theorem ofNat_uintLE_div (l : List Byte) (i : Nat) (h : i < l.length) : BitVec.ofNat 8 (uintLE l / 256 ^ i) = l[i] := by
  induction l generalizing i with
  | nil => simp at h
  | cons b l ih =>
    have hb : b.toNat < 256 := b.isLt
    cases i with
    | zero => apply BitVec.eq_of_toNat_eq; simp [uintLE, hb]
    | succ i =>
      have htail : uintLE (b :: l) / 256 = uintLE l := by rw [uintLE]; omega
      rw [pow_succ', ← Nat.div_div_eq_div_mul, htail, ih i (by simpa using h), List.getElem_cons_succ]

/-- R93: encoding what was read back from a string gives the string. -/
theorem le_sintOf_uintLE {n : Nat} (b : Vector Byte n) : le n (sintOf (8 * n) (uintLE b.toList)) = b := by
  apply Vector.ext
  intro i hi
  rw [getElem_le, ofInt_sintOf, byteOf_ofNat _ _ (by omega), ofNat_uintLE_div _ _ (by simpa using hi), Vector.getElem_toList]

/-- Settles O20: the two inverses at three bytes. -/
theorem signed24RoundTrip : Obligations.Signed24RoundTrip :=
  ⟨fun _ h => sintOf_uintLE_le (n := 3) (by decide) h, le_sintOf_uintLE⟩

/-! ## The payload of a successful `PACK` (R88) -/

/-- R85: a `PACK` with no Range error has every lane in range. -/
theorem laneFits_of_packState_err {s : State} (h : (packState s).err &&& 0x01 = 0) (k : Fin 7) :
    laneFits k (fieldValues s k) = true := by
  rw [(packState_report s).1, errByte_and_one] at h
  exact (anyFail_eq_false _).1 h k

/-- R87: on a value that is not negative, the mask of the state of charge is the mask of its word. -/
theorem ofInt_fieldBits_soc {v : Int} (h : 0 ≤ v) : BitVec.ofInt 16 (fieldBits 6 v) = BitVec.ofInt 16 v &&& 0x3FFF := by
  obtain ⟨x, rfl⟩ := Int.eq_ofNat_of_zero_le h
  exact BitVec.ofNat_and

/-- R10: byte `i` of an encoding, for a word length written out. -/
theorem getElem_le_of_width {n w : Nat} (hw : 8 * n = w) (v : Int) (i : Nat) (h : i < n) :
    (le n v)[i] = byteOf (BitVec.ofInt w v) i := by
  subst hw
  exact getElem_le n v i h

/-- R88: the table of the payload, each field as the word that holds it. -/
theorem payloadOf_fieldValues {s : State} (hsoc : laneFits 6 (fieldValues s 6) = true) :
    payloadOf (fieldValues s) =
      let f1 := BitVec.ofInt 16 (rne (s.rVolt.toInt * 100) 16)
      let f3 := BitVec.ofInt 16 (rne (s.rAux.toInt * 100) 16)
      let f4 := BitVec.ofInt 24 (rne (s.rCurr.toInt * 1000) 16)
      let f5 := BitVec.ofInt 16 (rne (s.rCons.toInt * 10) 16)
      let f6 := BitVec.ofInt 16 (rne (s.rSoc.toInt * 10) 16) &&& 0x3FFF
      #v[byteOf s.rTtg 0, byteOf s.rTtg 1, byteOf f1 0, byteOf f1 1, byteOf s.rAlarm 0, byteOf s.rAlarm 1, byteOf f3 0,
        byteOf f3 1, byteOf f4 0, byteOf f4 1, byteOf f4 2, byteOf f5 0, byteOf f5 1, byteOf f6 0, byteOf f6 1] := by
  obtain ⟨h0, h1, h2, h3, h4, h5, h6⟩ := fieldValues_eq s
  have hnonneg : 0 ≤ rne (s.rSoc.toInt * 10) 16 := h6 ▸ ((fitsU_iff _ 16).1 hsoc).1
  simp only [payloadOf_eq, getElem_le_of_width (n := 2) (w := 16) rfl, getElem_le_of_width (n := 3) (w := 24) rfl,
    ofInt_fieldBits_soc hnonneg, fieldBits_of_ne, h0, h1, h2, h3, h4, h5, h6, BitVec.ofInt_natCast, BitVec.ofNat_toNat,
    BitVec.setWidth_eq, ne_eq, Fin.reduceEq, not_false_eq_true]

/-- R61: the bits of a byte are bits of its register. -/
theorem extractLsb'_byteOf {w start len : Nat} (r : BitVec w) (i : Nat) (h : start + len ≤ 8) :
    (byteOf r i).extractLsb' start len = r.extractLsb' (8 * i + start) len := by
  apply BitVec.eq_of_getLsbD_eq
  intro k hk
  rw [BitVec.getLsbD_extractLsb', BitVec.getLsbD_extractLsb', getLsbD_byteOf, add_assoc]
  simp [show start + k < 8 by omega]

/-- Settles O22: byte `i` of a field's word is its bits `8 i + 7 : 8 i`, and the mask clears the two bits above bit 13. -/
theorem payloadBitLayout : Obligations.PayloadBitLayout := by
  intro s t ht hok
  rw [exec_pack, next_inj] at ht
  subst ht
  intro f1 f3 f4 f5 f6
  rw [packState_pbuf hok, payloadOf_fieldValues (laneFits_of_packState_err hok 6)]
  have hlow : (byteOf f6 1).extractLsb' 0 6 = f6.extractLsb' 8 6 := extractLsb'_byteOf f6 1 (by decide)
  have hreserved : (byteOf f6 1).extractLsb' 6 2 = 0 := by
    rw [extractLsb'_byteOf f6 1 (by decide), BitVec.extractLsb'_and]
    exact BitVec.and_zero
  exact ⟨rfl, rfl, rfl, rfl, rfl, rfl, rfl, rfl, rfl, rfl, rfl, rfl, rfl, rfl, hlow, hreserved⟩

end Sys2Proof.Machine
end

section
/-!
PROOFS. The arithmetic of one scaled lane (40_field_packer.md R112, R116, R117). Each fact rests on one bound: a rounded value
is at most half a unit from the exact one.
-/

namespace Sys2Proof.Machine

/-! ## Which integer is the rounded value (R12) -/

/-- Two multiples of `p` are no further apart than their distances from `t` together. -/
theorem abs_sub_mul_le_add (t m n : Int) {p : Int} (hp : 0 < p) : |m - n| * p ≤ |t - m * p| + |t - n * p| := by
  calc |m - n| * p = |m * p - n * p| := by rw [← sub_mul, abs_mul, abs_of_pos hp]
    _ ≤ |m * p - t| + |t - n * p| := abs_sub_le _ _ _
    _ = |t - m * p| + |t - n * p| := by rw [abs_sub_comm]

/-- Under either tie rule, an integer less than half a unit away is the rounded value. -/
theorem roundTo_eq_of_two_mul_abs_lt (tie : Config.TieRule) {t n : Int} {f : Nat} (hf : 1 ≤ f)
    (h : 2 * |t - n * 2 ^ f| < 2 ^ f) : roundTo tie t f = n := by
  have hp : (0 : Int) < 2 ^ f := by positivity
  have hround := two_mul_abs_sub_roundTo_le tie t hf
  have hgap : |roundTo tie t f - n| * 2 ^ f < 1 * 2 ^ f := by
    have := abs_sub_mul_le_add t (roundTo tie t f) n hp
    omega
  exact sub_eq_zero.1 (Int.abs_lt_one_iff.1 (lt_of_mul_lt_mul_right hgap hp.le))

/-- Under half-to-even, an even integer exactly half a unit away is the rounded value too: both are even, and they are at
most one apart. -/
theorem rne_eq_of_two_mul_abs_le {t n : Int} {f : Nat} (hf : 1 ≤ f) (h : 2 * |t - n * 2 ^ f| ≤ 2 ^ f)
    (heven : 2 * |t - n * 2 ^ f| = 2 ^ f → Even n) : rne t f = n := by
  rcases h.lt_or_eq with hlt | heq
  · exact roundTo_eq_of_two_mul_abs_lt _ hf hlt
  · obtain ⟨hround, htie, hnearest⟩ := roundingIsNearestTiesToEven t f hf
    have hother : |t - n * 2 ^ f| ≤ |t - rne t f * 2 ^ f| := abs_sub_mul_le_of_two_mul_abs_le h _
    have hgap : |rne t f - n| * 2 ^ f ≤ 1 * 2 ^ f := by
      have := abs_sub_mul_le_add t (rne t f) n (p := 2 ^ f) (by positivity)
      omega
    obtain ⟨a, ha⟩ := htie (by omega)
    obtain ⟨b, hb⟩ := heven heq
    rcases Int.abs_le_one_iff.1 (le_of_mul_le_mul_right hgap (by positivity)) with h0 | h1 | h1 <;> omega

/-- R112: the mirror image of a nearest integer is a nearest integer of the mirror image, and as even. -/
theorem rne_neg (t : Int) {f : Nat} (hf : 1 ≤ f) : rne (-t) f = -rne t f := by
  obtain ⟨hround, htie, _⟩ := roundingIsNearestTiesToEven t f hf
  have hdist : |-t - -rne t f * 2 ^ f| = |t - rne t f * 2 ^ f| := by rw [neg_mul, ← neg_sub', abs_neg]
  exact rne_eq_of_two_mul_abs_le hf (hdist ▸ hround) fun h => (htie (hdist ▸ h)).neg

/-- Settles O16. -/
theorem roundingIsSymmetric : Obligations.RoundingIsSymmetric :=
  fun t => rne_neg t (by decide)

/-! ## Rounding keeps the order (R116) -/

/-- R116 (f): to change places, two values would have to be rounded by more than a whole unit together. -/
theorem roundTo_mono (tie : Config.TieRule) {t t' : Int} {f : Nat} (hf : 1 ≤ f) (h : t ≤ t') :
    roundTo tie t f ≤ roundTo tie t' f := by
  rcases h.eq_or_lt with rfl | hlt
  · exact le_rfl
  · by_contra! hcross
    have hunit : (roundTo tie t' f + 1) * 2 ^ f ≤ roundTo tie t f * 2 ^ f :=
      mul_le_mul_of_nonneg_right hcross (by positivity)
    rw [add_mul, one_mul] at hunit
    have hround := two_mul_abs_sub_roundTo_le tie t hf
    have hround' := two_mul_abs_sub_roundTo_le tie t' hf
    have habs := neg_abs_le (t - roundTo tie t f * 2 ^ f)
    have habs' := le_abs_self (t' - roundTo tie t' f * 2 ^ f)
    omega

/-- R116 (f), under either tie rule: the scale is not negative, so that scaling and rounding both keep the order. -/
theorem quantWith_mono (tie : Config.TieRule) (scale : Nat) {r r' : BitVec 32} (h : r.toInt ≤ r'.toInt) :
    quantWith tie r scale ≤ quantWith tie r' scale :=
  roundTo_mono tie (by decide) (mul_le_mul_of_nonneg_right h (Int.natCast_nonneg scale))

/-- Settles O18. -/
theorem quantizationIsMonotone : Obligations.QuantizationIsMonotone :=
  fun _ _ scale h => quantWith_mono _ scale h

/-! ## The error of a scaled lane (R84, R116) -/

theorem fieldValues_of_scaled {k : Fin 7} (h : (fieldDesc k).scaled = true) (s : State) :
    fieldValues s k = rne ((fieldReg s k).toInt * (fieldDesc k).scale) 16 := by
  rw [fieldValues, laneValue, if_pos h]
  rfl

/-- Settles O17. -/
theorem quantizationErrorAtMostHalf : Obligations.QuantizationErrorAtMostHalf := by
  intro s k hk
  rw [fieldValues_of_scaled hk, abs_sub_comm]
  exact two_mul_abs_sub_roundTo_le .halfToEven _ (f := 16) (by decide)

/-! ## The register thresholds (R117) -/

/-- R117, one line of its list: at this scale `a` is the first register word that does not fall below `lo` and `b` the last
that does not exceed `hi`, with the values they round to. -/
structure RangeWords (scale : Nat) (lo hi : Int) (a b : BitVec 32) : Prop where
  prev : (a - 1).toInt = a.toInt - 1
  next : (b + 1).toInt = b.toInt + 1
  values : ∀ tie : Config.TieRule, quantWith tie (a - 1) scale < lo ∧ quantWith tie a scale = lo
    ∧ quantWith tie b scale = hi ∧ hi < quantWith tie (b + 1) scale

namespace RangeWords

/-- One less or one more fails, and by the order so does every word beyond. -/
theorem mem_iff {scale : Nat} {lo hi : Int} {a b : BitVec 32} (h : RangeWords scale lo hi a b) (tie : Config.TieRule)
    (r : BitVec 32) :
    lo ≤ quantWith tie r scale ∧ quantWith tie r scale ≤ hi ↔ a.toInt ≤ r.toInt ∧ r.toInt ≤ b.toInt := by
  obtain ⟨hprev, hnext, hvalues⟩ := h
  obtain ⟨hbelow, ha, hb, habove⟩ := hvalues tie
  refine and_congr ⟨fun hr => ?_, fun hr => ha.ge.trans (quantWith_mono tie scale hr)⟩
    ⟨fun hr => ?_, fun hr => (quantWith_mono tie scale hr).trans hb.le⟩
  · by_contra! hlt
    exact hr.not_gt ((quantWith_mono tie scale (by omega)).trans_lt hbelow)
  · by_contra! hlt
    exact hr.not_gt (habove.trans_le (quantWith_mono tie scale (by omega)))

theorem volt : RangeWords 100 (-32768) 32767 0xFEB850A4 0x0147ACCC :=
  ⟨by decide, by decide, fun tie => by cases tie <;> decide⟩

theorem curr : RangeWords 1000 (-8388608) 8388607 0xDF3B643A 0x20C49B85 :=
  ⟨by decide, by decide, fun tie => by cases tie <;> decide⟩

/-- The word after the last one is an exact tie, which both rules take upwards, out of the range. -/
theorem cons : RangeWords 10 (-32768) 32767 0xF3332667 0x0CCCBFFF :=
  ⟨by decide, by decide, fun tie => by cases tie <;> decide⟩

theorem soc : RangeWords 10 0 65535 0xFFFFF334 0x19998CCC :=
  ⟨by decide, by decide, fun tie => by cases tie <;> decide⟩

/-- R114: the range of the state of charge without the warning. -/
theorem socWithoutWarning : RangeWords 10 0 16383 0xFFFFF334 0x06665999 :=
  ⟨by decide, by decide, fun tie => by cases tie <;> decide⟩

end RangeWords

/-- Settles O19: the range checks are the intervals of R117's list. -/
theorem rangeCheckThresholds : Obligations.RangeCheckThresholds := by
  intro tie r
  obtain ⟨_, hvolt, hvolt', _⟩ := RangeWords.volt.values tie
  obtain ⟨_, hcurr, hcurr', _⟩ := RangeWords.curr.values tie
  obtain ⟨_, hcons, hcons', _⟩ := RangeWords.cons.values tie
  obtain ⟨_, hsoc, hsoc', _⟩ := RangeWords.soc.values tie
  obtain ⟨_, _, hfull, _⟩ := RangeWords.socWithoutWarning.values tie
  have hwarn : quantWith tie 0x0666599A 10 = 16384 := by cases tie <;> decide
  have hnoWarning : fitsU (quantWith tie r 10) 16 = true ∧ quantWith tie r 10 ≤ 0x3FFF
      ↔ 0 ≤ quantWith tie r 10 ∧ quantWith tie r 10 ≤ 16383 := by
    rw [fitsU_iff]
    omega
  exact ⟨(fitsS_iff _ 16).trans (RangeWords.volt.mem_iff tie r), (fitsS_iff _ 24).trans (RangeWords.curr.mem_iff tie r),
    (fitsS_iff _ 16).trans (RangeWords.cons.mem_iff tie r), (fitsU_iff _ 16).trans (RangeWords.soc.mem_iff tie r),
    hnoWarning.trans (RangeWords.socWithoutWarning.mem_iff tie r), hvolt, hvolt', hcurr, hcurr', hcons, hcons', hsoc, hsoc',
    hfull, hwarn, by rw [hwarn]; rfl⟩

end Sys2Proof.Machine
end

section
/-!
PROOFS. `PACK` as its pseudocode (40_field_packer.md R111, R115): the verdicts and the payload of a state's own readings, and
the payload lane by lane, written and read back (R93, R116).
-/

namespace Sys2Proof.Machine

/-! ## The payload lane by lane (R88, R111) -/

/-- R111: the bytes of lane `k` are the encoding of its field value, at the lane's offset. -/
theorem getElem_payloadOf (v : Fin 7 → Int) (k : Fin 7) (i : Nat) (hi : i < (fieldDesc k).bytes)
    (h : (fieldDesc k).offset + i < 15) :
    (payloadOf v)[(fieldDesc k).offset + i] = (le (fieldDesc k).bytes (fieldBits k (v k)))[i] := by
  rw [payloadOf_eq]
  fin_cases k <;> simp only [fieldDesc] at hi <;> interval_cases i <;> rfl

/-- Settles O23: bit `k` of `RFIELD` and the bytes of lane `k` are those of `laneValue k` of its own register. -/
theorem lanesAreIndependent : Obligations.LanesAreIndependent := by
  intro s s' t t' k ht ht' hreg
  rw [exec_pack, next_inj] at ht ht'
  subst ht ht'
  have hvalue : fieldValues s k = fieldValues s' k := by rw [fieldValues, fieldValues, hreg]
  refine ⟨?_, fun hok hok' j hlo hhi => ?_⟩
  · rw [(packState_report s).2, (packState_report s').2, rangeMask_getLsbD, rangeMask_getLsbD, hvalue]
  · obtain ⟨j, hj⟩ := j
    obtain ⟨i, rfl⟩ : ∃ i, j = (fieldDesc k).offset + i := Nat.exists_eq_add_of_le hlo
    have hi : i < (fieldDesc k).bytes := by simpa using hhi
    rw [packState_pbuf hok, packState_pbuf hok']
    simp only [Fin.getElem_fin, getElem_payloadOf _ k i hi, hvalue]

/-! ## Reading a field back (R93, R116) -/

theorem uintLE_le_of_fitsU {n : Nat} {v : Int} (h : fitsU v (8 * n) = true) : (uintLE (le n v).toList : Int) = v := by
  obtain ⟨hlo, hhi⟩ := (fitsU_iff _ _).1 h
  rw [uintLE_le, Int.emod_eq_of_lt hlo (by omega), Int.toNat_of_nonneg hlo]

theorem toList_eq_of_two (b : Vector Byte 2) : b.toList = [b[0], b[1]] := by
  match b with
  | ⟨⟨[x, y]⟩, _⟩ => rfl

/-- R93: the inverse of each field sees the encoding of that field alone. -/
theorem unpackField_payloadOf (v : Fin 7 → Int) :
    unpackField (payloadOf v) 0 = uintLE (le 2 (v 0)).toList
      ∧ unpackField (payloadOf v) 1 = sintOf 16 (uintLE (le 2 (v 1)).toList)
      ∧ unpackField (payloadOf v) 2 = uintLE (le 2 (v 2)).toList
      ∧ unpackField (payloadOf v) 3 = sintOf 16 (uintLE (le 2 (v 3)).toList)
      ∧ unpackField (payloadOf v) 4 = unpackS24 (le 3 (v 4))
      ∧ unpackField (payloadOf v) 5 = sintOf 16 (uintLE (le 2 (v 5)).toList)
      ∧ unpackField (payloadOf v) 6 = ((uintLE (le 2 (fieldBits 6 (v 6))).toList &&& Config.socMask : Nat) : Int) := by
  rw [payloadOf_eq]
  simp only [toList_eq_of_two]
  refine ⟨rfl, rfl, rfl, rfl, congrArg unpackS24 ?_, rfl, rfl⟩
  apply Vector.ext
  intro i hi
  interval_cases i <;> rfl

/-- R116 (d): a field with no mask reads back as the value that passed the range check. -/
theorem unpackField_payloadOf_of_ne {v : Fin 7 → Int} {k : Fin 7} (hk : k ≠ 6) (h : laneFits k (v k) = true) :
    unpackField (payloadOf v) k = v k := by
  obtain ⟨h0, h1, h2, h3, h4, h5, _⟩ := unpackField_payloadOf v
  match k with
  | 0 => exact h0.trans (uintLE_le_of_fitsU h)
  | 1 => exact h1.trans (sintOf_uintLE_le (n := 2) (by decide) h)
  | 2 => exact h2.trans (uintLE_le_of_fitsU h)
  | 3 => exact h3.trans (sintOf_uintLE_le (n := 2) (by decide) h)
  | 4 => exact h4.trans (sintOf_uintLE_le (n := 3) (by decide) h)
  | 5 => exact h5.trans (sintOf_uintLE_le (n := 2) (by decide) h)
  | 6 => exact absurd rfl hk

/-- R87: the mask keeps the low 14 bits. -/
theorem fieldBits_soc {v : Int} (h : 0 ≤ v) : fieldBits 6 v = v % 16384 := by
  have hmask : fieldBits 6 v = ((v.toNat &&& (2 ^ 14 - 1) : Nat) : Int) := rfl
  rw [hmask, Nat.and_two_pow_sub_one_eq_mod]
  omega

/-- R87, R93: the masked state of charge reads back modulo 16384. -/
theorem unpackField_payloadOf_soc {v : Fin 7 → Int} (h : laneFits 6 (v 6) = true) :
    unpackField (payloadOf v) 6 = v 6 % 16384 := by
  obtain ⟨hlo, _⟩ := (fitsU_iff _ 16).1 h
  obtain ⟨_, _, _, _, _, _, h6⟩ := unpackField_payloadOf v
  have hfits : fitsU (v 6 % 16384) 16 = true := (fitsU_iff _ _).2 (by omega)
  have hstored : uintLE (le 2 (v 6 % 16384)).toList = (v 6).toNat % 16384 := by
    have := uintLE_le_of_fitsU (n := 2) hfits
    omega
  rw [h6, fieldBits_soc hlo, hstored, Nat.and_two_pow_sub_one_eq_mod _ 14]
  omega

theorem errByte_and_four (r k w q c : Bool) : errByte r k w q c &&& 0x04 = 0 ↔ w = false := by
  revert r k w q c; decide

/-- R114, R196: of a lane in range, `W_SOC` is reported exactly when the value is above the mask. -/
theorem packState_err_and_four {s : State} (h : laneFits 6 (fieldValues s 6) = true) :
    (packState s).err &&& 0x04 = 0 ↔ fieldValues s 6 ≤ 0x3FFF := by
  rw [(packState_report s).1, errByte_and_four, socWarn, h]
  simp

/-- Settles O21: every lane has passed, and without the warning the remainder modulo 16384 is the value itself. -/
theorem fieldReadBackAfterPack : Obligations.FieldReadBackAfterPack := by
  intro s t ht hok
  rw [exec_pack, next_inj] at ht
  subst ht
  have hfits := laneFits_of_packState_err hok
  have hsoc : unpackField (packState s).pbuf 6 = fieldValues s 6 % 16384 := by
    rw [packState_pbuf hok, unpackField_payloadOf_soc (hfits 6)]
  refine ⟨fun k hk => ?_, hsoc.trans (Int.emod_def _ _), fun hwarn => ?_⟩
  · rw [packState_pbuf hok, unpackField_payloadOf_of_ne hk (hfits k)]
  · obtain ⟨hlo, _⟩ := (fitsU_iff _ 16).1 (hfits 6)
    have hmask := (packState_err_and_four (hfits 6)).1 hwarn
    rw [hsoc, Int.emod_eq_of_lt hlo (by omega)]

/-! ## The pseudocode of `PACK` (R115) -/

/-- R115: `fail` is empty when the five scaled lanes pass. -/
theorem anyFail_fieldValues (s : State) :
    anyFail (fieldValues s) = !(fitsS (fieldValues s 1) 16 && fitsS (fieldValues s 3) 16 && fitsS (fieldValues s 4) 24
      && fitsS (fieldValues s 5) 16 && fitsU (fieldValues s 6) 16) := by
  rw [anyFail, laneFits_integer 0 rfl, laneFits_integer 2 rfl, Bool.true_and, Bool.and_true]
  rfl

/-- R32, R115: the sum over `fail`. -/
theorem rangeMask_fieldValues (s : State) :
    rangeMask (fieldValues s) = (if fitsS (fieldValues s 1) 16 then 0 else 2) + (if fitsS (fieldValues s 3) 16 then 0 else 8)
      + (if fitsS (fieldValues s 4) 24 then 0 else 16) + (if fitsS (fieldValues s 5) 16 then 0 else 32)
      + (if fitsU (fieldValues s 6) 16 then 0 else 64) := by
  rw [rangeMask, laneFits_integer 0 rfl, laneFits_integer 2 rfl]
  show flagBit (!true) 0 ||| flagBit (!fitsS (fieldValues s 1) 16) 1 ||| flagBit (!true) 2
    ||| flagBit (!fitsS (fieldValues s 3) 16) 3 ||| flagBit (!fitsS (fieldValues s 4) 24) 4
    ||| flagBit (!fitsS (fieldValues s 5) 16) 5 ||| flagBit (!fitsU (fieldValues s 6) 16) 6 = _
  generalize fitsS (fieldValues s 1) 16 = b1
  generalize fitsS (fieldValues s 3) 16 = b3
  generalize fitsS (fieldValues s 4) 24 = b4
  generalize fitsS (fieldValues s 5) 16 = b5
  generalize fitsU (fieldValues s 6) 16 = b6
  revert b1 b3 b4 b5 b6
  decide

/-- R115: the report of a command that checks ranges only. -/
theorem errByte_range_warn (pass warn : Bool) :
    errByte (!pass) false warn false false = (if pass then 0x00 else 0x01) ||| (if warn then 0x04 else 0x00) := by
  revert pass warn
  decide

/-- R115: the encodings of the values, the integer fields straight from their registers. -/
theorem payloadOf_fieldValues_eq (s : State) :
    payloadOf (fieldValues s) = le 2 s.rTtg.toNat ++ le 2 (fieldValues s 1) ++ le 2 s.rAlarm.toNat ++ le 2 (fieldValues s 3)
      ++ le 3 (fieldValues s 4) ++ le 2 (fieldValues s 5) ++ le 2 (((fieldValues s 6).toNat &&& 0x3FFF : Nat) : Int) := by
  obtain ⟨h0, _, h2, _⟩ := fieldValues_eq s
  rw [← h0, ← h2]
  rfl

/-- R115: the two outcomes of `PACK`, with one report for both. -/
theorem packState_eq (s : State) :
    packState s =
      let e := errByte (anyFail (fieldValues s)) false (socWarn (fieldValues s)) false false
      if anyFail (fieldValues s) then
        { s with rfield := rangeMask (fieldValues s), err := e, ovalid := false, pvalid := false }
      else
        { s with
          rfield := rangeMask (fieldValues s), err := e, ovalid := false, pvalid := true
          pbuf := payloadOf (fieldValues s) } := by
  rw [packState]
  split <;> simp [raiseError, setFlags, report, storePayload, *]

/-- Settles O8: the report, the verdict and the payload of the readings, each as the pseudocode gives it. -/
theorem packResult : Obligations.PackResult := by
  intro s v1 v3 v4 v5 v6 pass warn rf e
  have hverdict : anyFail (fieldValues s) = !pass := anyFail_fieldValues s
  have hrf : rangeMask (fieldValues s) = rf := rangeMask_fieldValues s
  have he : errByte (!pass) false (socWarn (fieldValues s)) false false = e := errByte_range_warn pass warn
  rw [exec_pack, packState_eq, hverdict, hrf, he, payloadOf_fieldValues_eq]
  cases pass <;> rfl

end Sys2Proof.Machine
end

section
/-!
PROOFS. A command issued twice in a row (R115, R131, R145, R160, R174 to R176): the first leaves the second's inputs as they
were, but for the nonce that a `CRYPT` uses up.
-/

namespace Sys2Proof.Machine

open Sys2Proof.Safety

/-- R197: the same error raised again changes nothing more. -/
theorem raiseError_raiseError (e rf : Byte) (clearP clearN clearO : Bool) (s : State) :
    raiseError e rf clearP clearN clearO (raiseError e rf clearP clearN clearO s)
      = raiseError e rf clearP clearN clearO s := by
  simp [raiseError, setFlags, report]

/-- R23: no command but `SRST` changes a value that `PACK` or `ENCODE` computes. -/
theorem fieldValues_commandState {i : Instr} (hi : i ≠ .srst) (s : State) :
    fieldValues (commandState i s) = fieldValues s :=
  (fieldValues_congr (commandState_operands hi s).1).symm

/-- R35: no command but `KEYCLR` changes `KEYOK`. -/
theorem keyOk_commandState {i : Instr} (hi : i ≠ .keyclr) (s : State) : keyOk (commandState i s) = keyOk s :=
  keyOk_congr (commandState_key hi s).2

/-- R115: the second `PACK` meets the same readings. -/
theorem packState_packState (s : State) : packState (packState s) = packState s := by
  have hv : fieldValues (packState s) = fieldValues s := fieldValues_commandState (i := .pack) nofun s
  rcases packState_cases s with ⟨hfail, hs⟩ | ⟨hpass, hs⟩
  · rw [packState_of_fail (hv ▸ hfail), hv, hs, raiseError_raiseError]
  · rw [packState_of_pass (hv ▸ hpass), hv, hs]
    simp only [setFlags, storePayload, report]

/-- R160: the second `ENCODE` meets the same readings, header and key. -/
theorem encodeState_encodeState (s : State) :
    encodeState Config.blockEnc (encodeState Config.blockEnc s) = encodeState Config.blockEnc s := by
  have hv : fieldValues (encodeState Config.blockEnc s) = fieldValues s := fieldValues_commandState (i := .encode) nofun s
  have hkey : keyOk (encodeState Config.blockEnc s) = keyOk s := keyOk_commandState (i := .encode) nofun s
  rcases encodeState_cases Config.blockEnc s with ⟨hfail, hs⟩ | ⟨hpass, hk, hs⟩
  · rw [encodeState_of_fail (by rw [hv, hkey]; exact hfail), hv, hkey, hs, raiseError_raiseError]
  · rw [encodeState_of_pass (hv ▸ hpass) (hkey ▸ hk), hv, hs]
    simp only [setFlags, runCipher, storeNonce, storePayload, report]

theorem commandState_idem {i : Instr} (hi : i ≠ .crypt) (s : State) :
    commandState i (commandState i s) = commandState i s := by
  cases i with
  | crypt => exact absurd rfl hi
  | nop | nonce | keyclr | srst => rfl
  | pack => exact packState_packState s
  | encode => exact encodeState_encodeState s

/-- R145: with the key loaded and the nonce used up, `CRYPT` reports `E_SEQ` alone. -/
theorem cryptState_of_nonce_used (enc : Block → Block → Block) {s : State} (hk : keyOk s = true) (hn : s.nvalid = false) :
    cryptState enc s = raiseError 0x08 0x00 false false true s := by
  rw [cryptState_of_not_ready (by simp [hn]), hk, hn, Bool.and_false]
  rfl

/-- R145: after a successful `CRYPT` the key is still loaded and the nonce used up. -/
theorem nonce_used_of_cryptState {s : State} (h : (cryptState Config.blockEnc s).err = 0) :
    keyOk (cryptState Config.blockEnc s) = true ∧ (cryptState Config.blockEnc s).nvalid = false := by
  obtain ⟨hk, _, _⟩ := (cryptState_err_eq_zero _ s).1 h
  refine ⟨(keyOk_commandState (i := .crypt) nofun s).trans hk, Bool.eq_false_iff.2 fun hn => ?_⟩
  obtain ⟨_, hne⟩ := (cryptState_nvalid _ s).1 hn
  exact hne h

/-- Settles O38. -/
theorem repeatedCommands : Obligations.RepeatedCommands := by
  intro i s t u ht hu
  rw [exec_eq, next_inj] at ht hu
  subst ht hu
  refine ⟨fun hi => commandState_idem hi s, ?_⟩
  rintro rfl hok
  obtain ⟨hk, hn⟩ := nonce_used_of_cryptState hok
  have hagain : commandState .crypt (commandState .crypt s)
      = raiseError 0x08 0x00 false false true (commandState .crypt s) := cryptState_of_nonce_used _ hk hn
  rw [hagain]
  exact ⟨rfl, rfl, by simp⟩

end Sys2Proof.Machine
end

section
/-!
PROOFS. The Nonce Builder (R131, R132): the bytes of `build_nonce` and what they say of the header registers, which steps keep
`NONCE`, and the two statements.
-/

namespace Sys2Proof.Machine

open Sys2Proof.Safety

/-! ## The bytes of the nonce (R91, R131) -/

/-- R61, R131: the bytes as slices of the header registers. -/
theorem buildNonce_eq (m : BitVec 16) (r : Byte) (i : BitVec 16) :
    buildNonce m r i = #v[m.extractLsb' 0 8, m.extractLsb' 8 8, r, i.extractLsb' 0 8, i.extractLsb' 8 8,
      0, 0, 0, 0, 0, 0, 0, 0, 0, 0, 0] := rfl

theorem eq_of_two_bytes {r t : BitVec 16} (h0 : byteOf r 0 = byteOf t 0) (h1 : byteOf r 1 = byteOf t 1) : r = t :=
  eq_of_byteOf r t 2 rfl fun
    | 0, _ => h0
    | 1, _ => h1

/-- R132 (b): the first five bytes hold every bit of the three registers. -/
theorem buildNonce_inj {m m' : BitVec 16} {r r' : Byte} {i i' : BitVec 16} :
    buildNonce m r i = buildNonce m' r' i' ↔ m = m' ∧ r = r' ∧ i = i' := by
  constructor
  · intro h
    have hbyte (j : Fin 16) : (buildNonce m r i)[j] = (buildNonce m' r' i')[j] := by rw [h]
    exact ⟨eq_of_two_bytes (hbyte 0) (hbyte 1), hbyte 2, eq_of_two_bytes (hbyte 3) (hbyte 4)⟩
  · rintro ⟨rfl, rfl, rfl⟩
    rfl

/-- R132 (e): with the model and the readout type fixed, each of the 65536 values of `IV` has a nonce of its own. -/
theorem ncard_range_buildNonce (m : BitVec 16) (r : Byte) : (Set.range (buildNonce m r)).ncard = 65536 := by
  have hinj : Function.Injective (buildNonce m r) := fun i i' h =>
    have ⟨_, _, hiv⟩ := buildNonce_inj.1 h
    hiv
  calc (Set.range (buildNonce m r)).ncard = Nat.card (BitVec 16) := Nat.card_range_of_injective hinj
    _ = Nat.card (Fin (2 ^ 16)) := Nat.card_congr BitVec.equivFin.toEquiv
    _ = 65536 := Nat.card_fin _

/-! ## What `NONCE` stores, and what keeps it (R131, R132) -/

theorem nonceState_nonce (s : State) : (nonceState s).nonce = buildNonce s.modelId s.readout s.iv := rfl

/-- R132 (a), (b): two runs of `NONCE` store the same bytes exactly when the headers agree. -/
theorem nonceState_nonce_eq_iff (s t : State) : (nonceState s).nonce = (nonceState t).nonce ↔ SameHeader s t := by
  rw [nonceState_nonce, nonceState_nonce, buildNonce_inj]

/-- R131: no command but `NONCE`, `ENCODE` and `SRST` writes the register. -/
theorem commandState_nonce {i : Instr} (hnonce : i ≠ .nonce) (hencode : i ≠ .encode) (hsrst : i ≠ .srst) (s : State) :
    (commandState i s).nonce = s.nonce := by
  cases i with
  | nonce | encode | srst => contradiction
  | nop | keyclr => rfl
  | pack => rw [commandState, packState_frame]
  | crypt => rw [commandState, cryptState_frame]

/-! ## The statements -/

/-- Settles O9: the state of the pseudocode, and every event but the four keeps the register. -/
theorem nonceResult : Obligations.NonceResult := by
  refine ⟨fun s => ?_, fun s t h => ?_⟩
  · rw [exec_nonce, nonceState, buildNonce_eq]
    rfl
  · contrapose!
    rintro ⟨hnonce, hencode, hsrst, hreset⟩
    cases stepsTo_of_step h with
    | idle | read | pbuf | illegal => rfl
    | reset hp => exact absurd ((delivers_iff hp _).2 rfl) hreset
    | keyin => rw [pushKey_frame]; rfl
    | register _ _ h4 hpbuf => rw [writeWindow_register _ _ h4 hpbuf]; rfl
    | command i hp =>
      have hruns (j : Instr) (hi : i = j) : Runs s (encode j) := (runs_iff hp _).2 (congrArg encode hi)
      exact commandState_nonce (hnonce ∘ hruns .nonce) (hencode ∘ hruns .encode) (hsrst ∘ hruns .srst) _

/-- Settles O28: (a) and (b) are the two directions of one equivalence, (d) is the record window at `NONCE`. -/
theorem nonceLaws : Obligations.NonceLaws := by
  simp only [Obligations.NonceLaws, exec_nonce, next_inj]
  refine ⟨?_, ?_, ?_, ncard_range_buildNonce⟩
  · rintro s t _ _ hh rfl rfl
    exact (nonceState_nonce_eq_iff s t).2 hh
  · rintro s t _ _ rfl rfl hn
    exact (nonceState_nonce_eq_iff s t).1 hn
  · rintro s _ rfl
    exact ⟨zeroTail_buildNonce _ _ _, fun i => (readWindow_header _ i).symm⟩

end Sys2Proof.Machine
end

section
/-!
PROOFS. Counter mode as a function on byte strings (42_cipher_stage.md R142 to R144, R147): it is the XOR with one keystream,
for every block cipher and every increment; and the big-endian increment.
-/

namespace Sys2Proof.Machine

/-- R147: what meets both operands of an XOR cancels. -/
theorem xor_xor_xor_right {w : Nat} (a b x : BitVec w) : a ^^^ x ^^^ (b ^^^ x) = a ^^^ b := by
  rw [BitVec.xor_comm b, ← BitVec.xor_assoc, BitVec.xor_assoc a, BitVec.xor_self, BitVec.xor_zero]

/-! ## The keystream (R142) -/

section
variable (enc : Block → Block → Block) (inc : Block → Block) (k n : Block)

/-- R142: byte `m` of the keystream from the counter block `n` on, byte `m % 16` of the cipher's output on block `m / 16`. -/
def keystream (m : Nat) : Byte := (enc k (inc^[m / 16] n))[m % 16]

theorem keystream_block (j : Nat) (i : Fin 16) : keystream enc inc k n (16 * j + i) = (enc k (inc^[j] n))[i] := by
  have hdiv : (16 * j + i.val) / 16 = j := by omega
  have hmod : (16 * j + i.val) % 16 = i.val := by omega
  simp only [keystream, hdiv, hmod, Fin.getElem_fin]

/-- R144: no counter block but the first is used below byte 16. -/
theorem keystream_first_block (i : Fin 16) : keystream enc inc k n i = (enc k n)[i] := by
  simpa using keystream_block enc inc k n 0 i

/-- R142: the step of `ctrXorFrom` moves on by one byte of the keystream, into the next block after byte 15. -/
theorem keystream_next (i : Fin 16) (m : Nat) :
    keystream enc inc k (if i = 15 then inc n else n) ((i + 1 : Fin 16) + m) = keystream enc inc k n (i + (m + 1)) := by
  by_cases hi : i = 15
  · subst hi
    have hdiv : (15 + (m + 1)) / 16 = m / 16 + 1 := by omega
    have hmod : (15 + (m + 1)) % 16 = m % 16 := by omega
    simp [keystream, hdiv, hmod]
  · have hval : (i + 1 : Fin 16).val = i.val + 1 := Fin.val_add_one_of_lt' (by omega)
    rw [if_neg hi, hval, Nat.add_right_comm, Nat.add_assoc]

theorem ctrXorFrom_eq_mapIdx (i : Fin 16) (p : List Byte) :
    ctrXorFrom enc inc k n i p = p.mapIdx fun m b => b ^^^ keystream enc inc k n (i + m) := by
  induction p generalizing n i with
  | nil => rfl
  | cons b p ih =>
    simp only [ctrXorFrom, ih, keystream_next, List.mapIdx_cons]
    rw [Nat.add_zero, keystream_first_block]

/-- R142: counter mode is the XOR with the keystream, byte by byte. -/
theorem ctrXor_eq_mapIdx (p : List Byte) :
    ctrXor enc inc k n p = p.mapIdx fun m b => b ^^^ keystream enc inc k n m := by
  rw [ctrXor, ctrXorFrom_eq_mapIdx]
  simp only [Fin.val_zero, Nat.zero_add]

@[simp] theorem length_ctrXor (p : List Byte) : (ctrXor enc inc k n p).length = p.length := by
  rw [ctrXor_eq_mapIdx, List.length_mapIdx]

theorem getElem?_ctrXor (p : List Byte) (m : Nat) :
    (ctrXor enc inc k n p)[m]? = p[m]?.map (· ^^^ keystream enc inc k n m) := by
  rw [ctrXor_eq_mapIdx, List.getElem?_mapIdx]

theorem getElem_ctrXor (p : List Byte) (m : Nat) (h : m < (ctrXor enc inc k n p).length) :
    (ctrXor enc inc k n p)[m] = p[m]'(by simpa using h) ^^^ keystream enc inc k n m := by
  simp only [ctrXor_eq_mapIdx, List.getElem_mapIdx]

/-- R142, R144: the XOR datapath is counter mode at length 15, whatever the increment. -/
theorem toList_xorPayload (p : Payload) : (xorPayload p (enc k n)).toList = ctrXor enc inc k n p.toList := by
  apply List.ext_getElem
  · simp
  · intro m hm _
    have hm15 : m < 15 := by simpa using hm
    have hks : keystream enc inc k n m = (enc k n)[m] := keystream_first_block enc inc k n ⟨m, by omega⟩
    rw [getElem_ctrXor, hks, Vector.getElem_toList, Vector.getElem_toList, getElem_xorPayload]

/-! ## The laws of the XOR (R147) -/

/-- R147 (b) at length 15. -/
theorem xorPayload_xorPayload (p : Payload) (ks : Block) : xorPayload (xorPayload p ks) ks = p := by
  ext i hi : 1
  rw [getElem_xorPayload _ _ _ hi, getElem_xorPayload _ _ _ hi, BitVec.xor_assoc, BitVec.xor_self, BitVec.xor_zero]

/-- R147 (b): involution. -/
theorem ctrXor_ctrXor (p : List Byte) :
    ctrXor enc inc k n (ctrXor enc inc k n p) = p := by
  refine List.ext_getElem (by simp) fun m _ _ => ?_
  rw [getElem_ctrXor, getElem_ctrXor, BitVec.xor_assoc, BitVec.xor_self, BitVec.xor_zero]

/-- R147 (d): no integrity. -/
theorem ctrXor_zipWith_xor (p d : List Byte) :
    ctrXor enc inc k n (List.zipWith (· ^^^ ·) p d) = List.zipWith (· ^^^ ·) (ctrXor enc inc k n p) d := by
  refine List.ext_getElem (by simp) fun m _ _ => ?_
  rw [getElem_ctrXor, List.getElem_zipWith, List.getElem_zipWith, getElem_ctrXor, BitVec.xor_assoc,
    BitVec.xor_assoc, BitVec.xor_comm (keystream enc inc k n m)]

/-- R147 (e): nonce reuse. -/
theorem zipWith_xor_ctrXor (p q : List Byte) :
    List.zipWith (· ^^^ ·) (ctrXor enc inc k n p) (ctrXor enc inc k n q) = List.zipWith (· ^^^ ·) p q := by
  refine List.ext_getElem (by simp) fun m _ _ => ?_
  rw [List.getElem_zipWith, List.getElem_zipWith, getElem_ctrXor, getElem_ctrXor]
  exact xor_xor_xor_right _ _ _

end

/-- Settles O32: the same keystream byte meets both operands, and cancels. -/
theorem ctrXorLaws : Obligations.CtrXorLaws := fun enc inc k n p q _ =>
  ⟨length_ctrXor enc inc k n p, ctrXor_ctrXor enc inc k n p, ctrXor_zipWith_xor enc inc k n p q,
    zipWith_xor_ctrXor enc inc k n p q⟩

/-! ## The big-endian value (R143) -/

theorem uintLE_eq_foldr (l : List Byte) : uintLE l = l.foldr (fun b a => 256 * a + b.toNat) 0 := by
  induction l with
  | nil => rfl
  | cons b l ih => rw [uintLE, ih, List.foldr_cons, Nat.add_comm]

theorem val_rev_block (i : Fin 16) : i.rev.val = 15 - i.val := by
  rw [Fin.val_rev]
  omega

/-- R143: the big-endian value of a block is the little-endian value (R10) of its bytes in reverse. -/
theorem beValue_eq_uintLE (b : Block) : beValue b = uintLE (List.ofFn fun i => b.get i.rev) := by
  have hrev : b.toList.reverse = List.ofFn fun i => b.get i.rev := by
    refine List.ext_getElem (by simp) fun i _ _ => ?_
    rw [List.getElem_reverse, Vector.getElem_toList, List.getElem_ofFn, Vector.get_eq_getElem]
    congr 1
    rw [val_rev_block]
    simp
  rw [← hrev, uintLE_eq_foldr, List.foldr_reverse, beValue]

/-- R10: the weights of a little-endian string's bytes. -/
theorem uintLE_ofFn_eq_sum {m : Nat} (f : Fin m → Byte) : uintLE (List.ofFn f) = ∑ i, (f i).toNat * 256 ^ i.val := by
  induction m with
  | zero => rfl
  | succ m ih =>
    rw [List.ofFn_succ, uintLE, ih, Fin.sum_univ_succ, Finset.mul_sum]
    congr 1
    · simp
    · refine Finset.sum_congr rfl fun i _ => ?_
      rw [Fin.val_succ, pow_succ]
      ring

theorem beValue_eq_sum (b : Block) : beValue b = ∑ i : Fin 16, (b.get i).toNat * 256 ^ (15 - i.val) := by
  rw [beValue_eq_uintLE, uintLE_ofFn_eq_sum, ← Equiv.sum_comp Fin.revPerm]
  refine Finset.sum_congr rfl fun i _ => ?_
  rw [Fin.revPerm_apply, Fin.rev_rev, val_rev_block]

theorem be16_beValue (b : Block) : be16 (beValue b) = b := by
  ext i hi : 1
  rw [be16, Vector.getElem_ofFn, beValue_eq_uintLE, ofNat_uintLE_div _ _ (by rw [List.length_ofFn]; omega),
    List.getElem_ofFn, Vector.get_eq_getElem]
  congr 1
  rw [val_rev_block]
  exact Nat.sub_sub_self (by omega)

theorem beValue_be16 {n : Nat} (h : n < 2 ^ 128) : beValue (be16 n) = n := by
  have hbyte (i : Fin 16) : (be16 n).get i.rev = BitVec.ofNat 8 (n / 2 ^ (8 * i.val)) := by
    rw [be16, Vector.get_eq_getElem, Vector.getElem_ofFn, val_rev_block, Nat.sub_sub_self (by omega), pow_mul]
    rfl
  rw [beValue_eq_uintLE, funext hbyte]
  exact uintLE_ofFn 16 n h

/-- Settles O30: each fact about the little-endian value, read in reverse. -/
theorem ctrIncIsBigEndianPlusOne : Obligations.CtrIncIsBigEndianPlusOne :=
  ⟨be16_beValue, fun _ => beValue_be16, beValue_eq_sum,
    fun _ => ⟨beValue_be16 (Nat.mod_lt _ (by positivity)), rfl⟩⟩

end Sys2Proof.Machine
end

section
/-!
PROOFS. The Cipher Stage (42_cipher_stage.md R141, R145, R146): the state after `CRYPT`, `OBUF` as counter mode, and the
decryption of a record by `NONCE` and `CRYPT` (43_encode_and_assembler.md R165).
-/

namespace Sys2Proof.Machine

open Sys2Proof.Safety

/-! ## The pseudocode of `CRYPT` (R145) -/

/-- R34: `KEYOK` as the pseudocode tests it. -/
theorem keyOk_eq_decide (s : State) : keyOk s = decide (s.keyCnt.toNat = 16) := by
  rw [keyOk, Bool.eq_iff_iff, beq_iff_eq, decide_eq_true_iff, ← BitVec.toNat_inj]
  rfl

/-- R145: the report of `CRYPT`, its two causes apart. -/
theorem errByte_key_seq (k p n : Bool) :
    errByte false (!k) false (!(p && n)) false
      = (if k = true then 0x00 else 0x02) ||| (if p = false ∨ n = false then 0x08 else 0x00) := by
  revert k p n
  decide

/-- R145: the two outcomes of `CRYPT`, with one report for both. -/
theorem cryptState_eq (enc : Block → Block → Block) (s : State) :
    cryptState enc s =
      if (cryptState enc s).err = 0x00 then
        { s with
          err := (cryptState enc s).err, rfield := 0x00, ctr := s.nonce, ks := enc s.key s.nonce
          obuf := xorPayload s.pbuf (enc s.key s.nonce), nvalid := false, ovalid := true }
      else { s with err := (cryptState enc s).err, rfield := 0x00, ovalid := false } := by
  split
  case isTrue h =>
    obtain ⟨hk, hp, hn⟩ := (cryptState_err_eq_zero enc s).1 h
    rw [cryptState_of_ready hk hp hn]
    simp [setFlags, runCipher, report, hp]
  case isFalse h =>
    rw [cryptState_err_eq_zero] at h
    rw [cryptState_of_not_ready (by simpa using h)]
    simp [raiseError, setFlags, report]

/-- Settles O10: the report is `e`, and it decides between the two outcomes. -/
theorem cryptResult : Obligations.CryptResult := by
  intro s e
  have herr : (cryptState Config.blockEnc s).err = e := by
    rw [(cryptState_report _ s).1, errByte_key_seq, keyOk_eq_decide]
    simp only [decide_eq_true_iff]
    rfl
  rw [exec_crypt, cryptState_eq, herr]
  rfl

/-! ## `OBUF` as counter mode (R142, R144) -/

/-- R142, R144: `OBUF` after a successful `CRYPT`, whatever the increment. -/
theorem cryptState_obuf_toList (inc : Block → Block) {enc : Block → Block → Block} {s : State}
    (h : (cryptState enc s).err = 0) :
    (cryptState enc s).obuf.toList = ctrXor enc inc s.key s.nonce s.pbuf.toList := by
  rw [cryptState_obuf h, toList_xorPayload]

/-- R141, R160: a successful `ENCODE` encrypts the payload it stores under the nonce it stores. -/
theorem encodeState_obuf {enc : Block → Block → Block} {s : State} (h : (encodeState enc s).err &&& 0x03 = 0) :
    (encodeState enc s).obuf = xorPayload (encodeState enc s).pbuf (enc s.key (encodeState enc s).nonce) := by
  obtain ⟨hpbuf, hnonce, hobuf⟩ := encodeState_results h
  rw [hobuf, hpbuf, hnonce]

/-- Settles O29: byte `16 j + i` of the keystream is byte `i` of block `j`. -/
theorem ctrXorIsCounterMode : Obligations.CtrXorIsCounterMode := by
  refine ⟨fun enc inc k n p => ⟨length_ctrXor enc inc k n p, fun j i b hb => ?_⟩, fun s t ht herr => ?_⟩
  · rw [getElem?_ctrXor, hb, Option.map_some, keystream_block]
  · rw [exec_crypt, next_inj] at ht
    subst ht
    exact cryptState_obuf_toList ctrInc herr

/-- Settles O31: the first 16 bytes of the keystream come from the first block. -/
theorem ctrIncIsNotObservable : Obligations.CtrIncIsNotObservable := by
  refine ⟨fun enc inc k n p i b _ hb => ?_, fun inc s t => ⟨fun ht herr => ?_, fun ht herr => ?_⟩⟩
  · rw [getElem?_ctrXor, hb, Option.map_some, keystream_first_block]
  · rw [exec_crypt, next_inj] at ht
    subst ht
    exact cryptState_obuf_toList inc herr
  · rw [exec_encode, next_inj] at ht
    subst ht
    rw [encodeState_obuf herr, toList_xorPayload]

/-! ## Decryption (R146, R165) -/

/-- R61, R146: a header register filled from the bytes of another holds the same word. -/
theorem eq_of_toNat_eq_bytes {r t : BitVec 16} (h : t.toNat = (byteOf r 0).toNat + 256 * (byteOf r 1).toNat) : r = t := by
  apply BitVec.eq_of_toNat_eq
  simp only [byteOf, BitVec.extractLsb'_toNat, Nat.shiftRight_eq_div_pow] at h
  omega

/-- R162: bytes 1 to 5 of the record are the header registers of the encoding run. -/
theorem readWindow_encodeState_header {enc : Block → Block → Block} {s : State}
    (h : (encodeState enc s).err &&& 0x03 = 0) :
    readWindow (encodeState enc s) (addr 0x50 1) = byteOf s.modelId 0
      ∧ readWindow (encodeState enc s) (addr 0x50 2) = byteOf s.modelId 1
      ∧ readWindow (encodeState enc s) (addr 0x50 3) = s.readout
      ∧ readWindow (encodeState enc s) (addr 0x50 4) = byteOf s.iv 0
      ∧ readWindow (encodeState enc s) (addr 0x50 5) = byteOf s.iv 1 := by
  obtain ⟨_, hnonce, _⟩ := encodeState_results h
  have hbyte (i : Fin 5) : readWindow (encodeState enc s) (addr 0x51 i) = (buildNonce s.modelId s.readout s.iv)[i.val] := by
    rw [readWindow_header, hnonce]
  exact ⟨hbyte 0, hbyte 1, hbyte 2, hbyte 3, hbyte 4⟩

/-- R146: with a key loaded and `PBUF` filled, `NONCE` and then `CRYPT` succeed. -/
theorem cryptState_nonceState_err (enc : Block → Block → Block) {t : State} (hk : keyOk t = true) (hp : t.pvalid = true) :
    (cryptState enc (nonceState t)).err = 0 :=
  (cryptState_err_eq_zero enc _).2 ⟨hk, hp, nonceState_nvalid t⟩

/-- R165 (c): the same header and key give the same keystream, and its second XOR undoes the first (R147 (b)). -/
theorem cryptState_nonceState_obuf {enc : Block → Block → Block} {s t : State} (hs : (encodeState enc s).err &&& 0x03 = 0)
    (ht : (cryptState enc (nonceState t)).err = 0) (hkey : t.key = s.key) (hheader : SameHeader s t)
    (hpbuf : t.pbuf = (encodeState enc s).obuf) :
    (cryptState enc (nonceState t)).obuf = (encodeState enc s).pbuf := by
  obtain ⟨_, hnonce, _⟩ := encodeState_results hs
  have hkeystream : enc (nonceState t).key (nonceState t).nonce = enc s.key (encodeState enc s).nonce := by
    rw [hnonce, ← nonceState_nonce, (nonceState_nonce_eq_iff s t).2 hheader, ← hkey]
    rfl
  have hin : (nonceState t).pbuf = (encodeState enc s).obuf := hpbuf
  rw [cryptState_obuf ht, hkeystream, hin, encodeState_obuf hs, xorPayload_xorPayload]

/-- Settles O33: the record's header bytes restore the header registers, and so the nonce and the keystream. -/
theorem decryptionRecoversThePayload : Obligations.DecryptionRecoversThePayload := by
  intro s s' t u w hs herr hkey hcnt hpvalid hmodel hreadout hiv hpbuf hu hw
  rw [exec_encode, next_inj] at hs
  rw [exec_nonce, next_inj] at hu
  rw [exec_crypt, next_inj] at hw
  subst hs hu hw
  obtain ⟨hbyte1, hbyte2, hbyte3, hbyte4, hbyte5⟩ := readWindow_encodeState_header herr
  rw [hbyte1, hbyte2] at hmodel
  rw [hbyte4, hbyte5] at hiv
  have hheader : SameHeader s t :=
    ⟨eq_of_toNat_eq_bytes hmodel, (hreadout.trans hbyte3).symm, eq_of_toNat_eq_bytes hiv⟩
  have hciphertext : t.pbuf = (encodeState Config.blockEnc s).obuf :=
    Vector.ext fun i hi => (hpbuf ⟨i, hi⟩).trans (readWindow_obuf _ ⟨i, hi⟩)
  have hok := cryptState_nonceState_err Config.blockEnc (t := t) (by simp [keyOk, hcnt]) hpvalid
  refine ⟨hok, (cryptState_ovalid _ _).2 hok, fun i => ?_⟩
  rw [readWindow_obuf, cryptState_nonceState_obuf herr hok hkey hheader hciphertext]

end Sys2Proof.Machine
end

section
/-!
PROOFS. `ENCODE` and the record window (43_encode_and_assembler.md R160 to R162): the state after `ENCODE`, the same state by
way of the three stages, and the 21 bytes at `OUT`.
-/

namespace Sys2Proof.Machine

open Sys2Proof.Safety

/-! ## The pseudocode of `ENCODE` (R160) -/

/-- R160: the report of `ENCODE`, its three causes apart. -/
theorem errByte_range_key_warn (pass k warn : Bool) :
    errByte (!pass) (!k) warn false false
      = (if pass then 0x00 else 0x01) ||| (if k = true then 0x00 else 0x02) ||| (if warn then 0x04 else 0x00) := by
  revert pass k warn
  decide

/-- R160: what a failing `ENCODE` writes. -/
theorem encodeState_of_failure {enc : Block → Block → Block} {s : State} (h : (encodeState enc s).err &&& 0x03 ≠ 0) :
    encodeState enc s = { s with
      err := (encodeState enc s).err, rfield := (encodeState enc s).rfield
      pvalid := false, nvalid := false, ovalid := false } := by
  rcases encodeState_cases enc s with ⟨_, hs⟩ | ⟨hv, hk, _⟩
  · rw [hs]
    simp [raiseError, setFlags, report]
  · exact absurd ((encodeState_err_and_three enc s).2 ⟨hv, hk⟩) h

/-- R160: what a successful `ENCODE` writes; `CTR` and `KS` as R141 writes them. -/
theorem encodeState_of_success {enc : Block → Block → Block} {s : State} (h : (encodeState enc s).err &&& 0x03 = 0) :
    encodeState enc s = { s with
      err := (encodeState enc s).err, rfield := (encodeState enc s).rfield
      pbuf := payloadOf (fieldValues s), nonce := buildNonce s.modelId s.readout s.iv
      obuf := xorPayload (payloadOf (fieldValues s)) (enc s.key (buildNonce s.modelId s.readout s.iv))
      pvalid := true, nvalid := false, ovalid := true
      ctr := buildNonce s.modelId s.readout s.iv, ks := enc s.key (buildNonce s.modelId s.readout s.iv) } := by
  obtain ⟨hv, hk⟩ := (encodeState_err_and_three enc s).1 h
  rw [encodeState_of_pass hv hk]
  rfl

/-- Settles O11: the report is `e`, and its two fatal bits decide between the two outcomes. -/
theorem encodeResult : Obligations.EncodeResult := by
  intro s v1 v3 v4 v5 v6 pass warn rf e p n
  have hverdict : anyFail (fieldValues s) = !pass := anyFail_fieldValues s
  have hpayload : payloadOf (fieldValues s) = p := payloadOf_fieldValues_eq s
  have herr : (encodeState Config.blockEnc s).err = e := by
    rw [(encodeState_report _ s).1, hverdict, errByte_range_key_warn, keyOk_eq_decide]
    simp only [decide_eq_true_iff]
    rfl
  have hrf : (encodeState Config.blockEnc s).rfield = rf := (encodeState_report _ s).2.trans (rangeMask_fieldValues s)
  refine ⟨n, Config.blockEnc s.key n, ?_⟩
  rw [exec_encode]
  split
  case isTrue hok => rw [encodeState_of_success (herr ▸ hok), herr, hrf, hpayload]; rfl
  case isFalse hfail => rw [encodeState_of_failure (herr ▸ hfail), herr, hrf]

/-! ## `ENCODE` and its three stages (R161) -/

/-- R161: the three commands that `ENCODE` does in one. -/
def stagesState (enc : Block → Block → Block) (s : State) : State := cryptState enc (nonceState (packState s))

section
variable {enc : Block → Block → Block} {s : State}

/-- R161: where the readings pass, the stages before `CRYPT` leave a valid payload and an armed nonce. -/
theorem stagesState_of_pass (hv : anyFail (fieldValues s) = false) (hk : keyOk s = true) :
    stagesState enc s = setFlags true false true (runCipher enc (report 0 0 (nonceState (packState s)))) := by
  have hkey : keyOk (nonceState (packState s)) = true := (keyOk_commandState (i := .pack) nofun s).trans hk
  have hpvalid : (nonceState (packState s)).pvalid = true := by rw [nonceState_pvalid, packState_of_pass hv]; rfl
  exact cryptState_of_ready hkey hpvalid (nonceState_nvalid _)

/-- R161: `NONCE` and `CRYPT` have each written their own report in the place of the warning. -/
theorem encodeState_eq_stagesState (h : (encodeState enc s).err &&& 0x03 = 0) :
    encodeState enc s = { stagesState enc s with err := (encodeState enc s).err } := by
  obtain ⟨hv, hk⟩ := (encodeState_err_and_three enc s).1 h
  rw [stagesState_of_pass hv hk, packState_of_pass hv, encodeState_of_pass hv hk]
  rfl

theorem stagesState_err (h : (encodeState enc s).err &&& 0x03 = 0) : (stagesState enc s).err = 0x00 := by
  obtain ⟨hv, hk⟩ := (encodeState_err_and_three enc s).1 h
  rw [stagesState_of_pass hv hk]
  rfl

/-- R160, R196: a successful `ENCODE` reports the warning or nothing. -/
theorem encodeState_err_of_success (h : (encodeState enc s).err &&& 0x03 = 0) :
    (encodeState enc s).err = if socWarn (fieldValues s) then 0x04 else 0x00 := by
  obtain ⟨hv, hk⟩ := (encodeState_err_and_three enc s).1 h
  rw [(encodeState_report enc s).1, hv, hk]
  cases socWarn (fieldValues s) <;> rfl

/-- R115, R161: the key is the only thing `ENCODE` checks and `PACK` does not. -/
theorem encodeState_err_eq_packState_err (h : (encodeState enc s).err &&& 0x03 = 0) :
    (encodeState enc s).err = (packState s).err := by
  obtain ⟨_, hk⟩ := (encodeState_err_and_three enc s).1 h
  rw [(encodeState_report enc s).1, (packState_report s).1, hk]
  rfl

/-- R161: a failed `PACK` leaves no valid payload, and `NONCE` does not make one. -/
theorem stagesState_eSeq (h : (packState s).err &&& 0x01 ≠ 0) : (stagesState enc s).err &&& 0x08 ≠ 0 := by
  have hpvalid : (packState s).pvalid = false := Bool.eq_false_iff.2 (mt (packState_pvalid s).1 h)
  exact (cryptState_err_and_eight enc _).2 (.inl hpvalid)

end

/-- R131: `NONCE` after `PACK` reads the header registers as they stood before. -/
theorem nonceState_packState_nonce (s : State) :
    (nonceState (packState s)).nonce = buildNonce s.modelId s.readout s.iv := by
  rw [nonceState_nonce, packState_frame]

/-- Settles O34: success, failure and a failed `PACK`, each as the rule compares it. -/
theorem encodeEqualsTheStages : Obligations.EncodeEqualsTheStages := by
  intro s t a b c ht ha hb hc
  rw [exec_encode, next_inj] at ht
  rw [exec_pack, next_inj] at ha
  rw [exec_nonce, next_inj] at hb
  rw [exec_crypt, next_inj] at hc
  subst ht ha hb hc
  refine ⟨fun hok => ?_, fun hfail => ?_, fun hpack => ?_⟩
  · exact ⟨encodeState_eq_stagesState hok, stagesState_err hok, encodeState_err_eq_packState_err hok,
      encodeState_err_of_success hok⟩
  · rw [encodeState_of_failure hfail]
    exact ⟨rfl, rfl, rfl⟩
  · exact ⟨nonceState_packState_nonce s, nonceState_nvalid _, stagesState_eSeq hpack⟩

/-! ## The record window after `ENCODE` (R162) -/

/-- R92: the record as one byte string. -/
theorem toList_record (t : Byte) (n : Block) (c : Payload) :
    (record t n c).toList = t :: n.toList.take 5 ++ c.toList := by
  have hheader : [n[0], n[1], n[2], n[3], n[4]] = n.toList.take 5 := by
    refine List.ext_getElem (by simp) fun i hi _ => ?_
    have hi5 : i < 5 := hi
    rw [List.getElem_take, Vector.getElem_toList]
    interval_cases i <;> rfl
  rw [← hheader, record, Vector.toList_append, Vector.toList_append]
  rfl

/-- R40, R170: the 21 bytes at `OUT` in order. -/
theorem ofFn_readWindow_out (s : State) :
    (List.ofFn fun i : Fin 21 => readWindow s (addr 0x50 i)) = (record Config.recordType s.nonce s.obuf).toList := by
  refine List.ext_getElem (by simp) fun i hi _ => ?_
  have hi21 : i < 21 := by simpa using hi
  rw [List.getElem_ofFn, Vector.getElem_toList]
  exact readWindow_out s ⟨i, hi21⟩

/-- Settles O36: the window is the record of the stored nonce and ciphertext, and the ciphertext is counter mode. -/
theorem recordWindowAfterEncode : Obligations.RecordWindowAfterEncode := by
  intro s t ht hok
  rw [exec_encode, next_inj] at ht
  subst ht
  obtain ⟨_, hnonce, hobuf⟩ := encodeState_results hok
  rw [ofFn_readWindow_out, toList_record, hnonce, hobuf, toList_xorPayload _ ctrInc]

end Sys2Proof.Machine
end

section
/-!
PROOFS. The host's accesses and the system commands (44_host_access_and_system.md R170 to R177): a read, a write to each kind
of location, the key line of R97, and the whole next state of `NOP`, `KEYCLR`, `SRST` and the Illegal command.
-/

namespace Sys2Proof.Machine

open Sys2Proof.Safety

/-! ## What a read returns (R170) -/

theorem readWindow_locAddr (s : State) (l : Loc) : readWindow s (BitVec.ofNat 7 (locAddr l)) = readLoc s l := by
  rw [readWindow, locate_locAddr]

/-- The port's own fields stand at no address (log 2). -/
theorem readWindow_deliver (rest : List HostEvent) (b : Option Byte) (s : State) (a : Addr) :
    readWindow (deliver rest b s) a = readWindow s a := by
  unfold readWindow
  cases locate a <;> rfl

/-- R30: the four defined bits of `STATUS`, as a number. -/
theorem statusByte_toNat (s : State) :
    (statusByte s).toNat = (keyOk s).toNat + 2 * s.pvalid.toNat + 4 * s.nvalid.toNat + 8 * s.ovalid.toNat := by
  rw [statusByte]
  generalize keyOk s = k
  generalize s.pvalid = p
  generalize s.nvalid = n
  generalize s.ovalid = o
  revert k p n o
  decide

/-- R34: bit 0 of `STATUS` is `KEYOK`. -/
theorem readWindow_status_keyOk (s : State) : (readWindow s 0x01).getLsbD 0 = keyOk s := by
  have hread : readWindow s 0x01 = statusByte s := readWindow_locAddr s .status
  rw [hread, statusByte]
  simp (disch := decide) only [BitVec.getLsbD_or, flagBit_getLsbD]
  simp

/-- R40: `OUT[0]` is `RECORD_TYPE`. -/
theorem outByte_recordType (s : State) : outByte s 0 = Config.recordType :=
  getElem_record _ _ _ 0 (by decide)

/-- Settles O39: each row of the table at the address of its location. -/
theorem hostReadReturnsTheTable : Obligations.HostReadReturnsTheTable := by
  intro s
  have hat := readWindow_locAddr s
  have hstatus : (readWindow s 0x01).toNat
      = (if s.keyCnt.toNat = 16 then 1 else 0) + 2 * s.pvalid.toNat + 4 * s.nvalid.toNat + 8 * s.ovalid.toNat := by
    have hread : readWindow s 0x01 = statusByte s := hat .status
    rw [hread, statusByte_toNat, keyOk_eq_decide]
    by_cases h : s.keyCnt.toNat = 16 <;> simp [h]
  have hkeycnt : (readWindow s 0x05).toNat = s.keyCnt.toNat := by
    have hread : readWindow s 0x05 = s.keyCnt.zeroExtend 8 := hat .keycnt
    rw [hread, BitVec.toNat_setWidth_of_le (by decide)]
  exact ⟨fun _ _ hp => step_of_read hp, hat .cmd, hat .keyin, hstatus, hat .err, hat .rfield, hkeycnt, hat .rectype,
    fun i => hat (.modelid i), hat .readout, fun i => hat (.iv i), fun i => hat (.ttg i), fun i => hat (.volt i),
    fun i => hat (.alarm i), fun i => hat (.aux i), fun i => hat (.curr i), fun i => hat (.cons i), fun i => hat (.soc i),
    fun i => hat (.pbuf i), fun i => hat (.nonce i), (hat (.out 0)).trans (outByte_recordType s), readWindow_header s,
    readWindow_obuf s, fun a ha => readLoc_of_readsZero (readsZero_locate a (.inl ha)) s⟩

/-! ## Writes to the header and reading registers (R62, R171) -/

theorem isOperandLoc_of_isPlainRegister (a : Addr) (h : isPlainRegister a) : isOperandLoc (locate a) = true := by
  revert a; exact forall_addr (by decide)

/-- R62: a write to a byte of a header or reading register, read back at any location. -/
theorem readLoc_writeLoc {l : Loc} (hl : isOperandLoc l = true) (v : Byte) (s : State) (m : Loc) :
    readLoc (writeLoc v s l) m = if m = l then v else readLoc s m := by
  cases l with
  | readout => cases m <;> simp [writeLoc, readLoc, statusByte, keyOk, outByte]
  | modelid | iv | ttg | volt | alarm | aux | curr | cons | soc =>
    cases m <;> simp (disch := omega) [writeLoc, readLoc, statusByte, keyOk, outByte, byteOf_setByteOf, Fin.ext_iff]
  | _ => contradiction

/-- R171: the same by address, since no two addresses of the window share such a byte. -/
theorem readWindow_writeWindow {a : Addr} (ha : isOperandLoc (locate a) = true) (v : Byte) (s : State) (b : Addr) :
    readWindow (writeWindow a v s) b = if b = a then v else readWindow s b := by
  have hne : locate a ≠ .reserved := fun h => by rw [h] at ha; contradiction
  have hloc : locate b = locate a ↔ b = a := ⟨fun h => (locate_injective a b h.symm hne).symm, fun h => h ▸ rfl⟩
  simp only [readWindow, writeWindow, readLoc_writeLoc ha, hloc]

/-- Settles O40. -/
theorem plainRegisterWrite : Obligations.PlainRegisterWrite := by
  intro s a v rest hp ha
  have hloc := isOperandLoc_of_isPlainRegister a ha
  have h0 : a ≠ 0x00 := by rintro rfl; exact absurd hloc (by decide)
  have h4 : a ≠ 0x04 := by rintro rfl; exact absurd hloc (by decide)
  have hpbuf (i : Fin 15) : a ≠ addr 0x30 i := by
    rintro rfl
    rw [locate_pbuf] at hloc
    contradiction
  refine ⟨_, step_of_write hp h0, ?_, fun b hb => ?_, writeWindow_register (deliver rest none s) v h4 hpbuf⟩
  · rw [readWindow_writeWindow hloc, if_pos rfl]
  · rw [readWindow_writeWindow hloc, if_neg hb, readWindow_deliver]

/-! ## The other writes (R65, R173) -/

/-- Settles O43. -/
theorem pbufAndOtherWrites : Obligations.PbufAndOtherWrites := by
  refine fun s v rest => ⟨fun i hp => ?_, fun a hp ha => step_of_ignored_write hp (ignoresWrites_locate a ha.symm),
    fun i hp hd => step_of_command hp hd⟩
  rw [step_of_write hp (zero_ne_addr_pbuf i).symm, writeWindow_pbuf]
  rfl

/-! ## The key port (R35, R172) -/

section
variable {s : State} (v : Byte)

theorem pushKey_of_lt (h : s.keyCnt.toNat < 16) :
    pushKey v s = { s with key := s.key.set s.keyCnt.toNat v h, keyCnt := s.keyCnt + 1 } :=
  dif_pos h

theorem pushKey_of_le (h : 16 ≤ s.keyCnt.toNat) : pushKey v s = { s with keyCnt := 17 } :=
  dif_neg h.not_gt

theorem step_of_keyin {rest : List HostEvent} (hp : s.pending = .write 0x04 v :: rest) :
    step s = .next (pushKey v (deliver rest none s)) := by
  rw [step_of_write hp (by decide), writeWindow_keyin]

end

/-- Settles O41. -/
theorem keyinWrite : Obligations.KeyinWrite := by
  intro s v rest hp
  rw [step_of_keyin v hp]
  refine ⟨fun h => ?_, fun h => ?_⟩
  · rw [pushKey_of_lt v (s := deliver rest none s) h, BitVec.ofNat_add, BitVec.ofNat_toNat, BitVec.setWidth_eq]
    rfl
  · rw [pushKey_of_le v (s := deliver rest none s) h]
    rfl

/-! ## The `KEY` line (R97, R149) -/

/-- The bytes of `h` pushed one after another. -/
def pushKeys (h : List Byte) (s : State) : State := h.foldl (fun u b => pushKey b u) s

theorem pushKeys_cons (b : Byte) (h : List Byte) (s : State) : pushKeys (b :: h) s = pushKeys h (pushKey b s) := rfl

theorem pushKey_deliver (v : Byte) (rest : List HostEvent) (b : Option Byte) (s : State) :
    pushKey v (deliver rest b s) = deliver rest b (pushKey v s) := by
  rw [← writeWindow_keyin, writeWindow_deliver, writeWindow_keyin]

/-- One step for each pending push. -/
theorem after_pushes (h : List Byte) (s : State) :
    after h.length (deliver (h.map (.write 0x04)) none s) = .next (deliver [] none (pushKeys h s)) := by
  induction h generalizing s with
  | nil => rfl
  | cons b h ih =>
    have hstep : step (deliver ((b :: h).map (.write 0x04)) none s)
        = .next (deliver (h.map (.write 0x04)) none (pushKey b s)) := by
      rw [step_of_keyin b rfl, pushKey_deliver, pushKey_deliver]
      rfl
    rw [List.length_cons, after_succ _ hstep, ih, pushKeys_cons]

theorem pushKeys_frame (h : List Byte) (s : State) :
    pushKeys h s = { s with key := (pushKeys h s).key, keyCnt := (pushKeys h s).keyCnt } := by
  induction h generalizing s with
  | nil => rfl
  | cons b h ih =>
    rw [pushKeys_cons, ih, pushKey_frame]

/-- R35: `KEYCNT` counts the bytes of `h` up to 17, and the key is the first 16 of them with zeros behind. -/
structure KeyLoaded (h : List Byte) (s : State) : Prop where
  count : s.keyCnt.toNat = min h.length 17
  bytes : ∀ i : Fin 16, s.key[i] = h[i.val]?.getD 0x00

theorem keyLoaded_pushKey {g : List Byte} {s : State} (hs : KeyLoaded g s) (v : Byte) :
    KeyLoaded (g ++ [v]) (pushKey v s) := by
  obtain ⟨hcount, hbytes⟩ := hs
  by_cases hlt : s.keyCnt.toNat < 16
  · have hlen : s.keyCnt.toNat = g.length := by omega
    rw [pushKey_of_lt v hlt]
    refine ⟨?_, fun i => ?_⟩
    · show (s.keyCnt + 1).toNat = min (g ++ [v]).length 17
      rw [List.length_append, List.length_singleton]
      bv_omega
    · have hi : s.key[i.val] = g[i.val]?.getD 0x00 := hbytes i
      simp only [Fin.getElem_fin, Vector.getElem_set, hlen]
      rcases lt_trichotomy i.val g.length with hlow | heq | hhigh
      · rw [if_neg hlow.ne', hi, List.getElem?_append_left hlow]
      · rw [if_pos heq.symm, heq, List.getElem?_concat_length, Option.getD_some]
      · rw [if_neg hhigh.ne, hi, List.getElem?_eq_none hhigh.le, List.getElem?_eq_none (by simpa using hhigh)]
  · have hle : 16 ≤ g.length := by omega
    rw [pushKey_of_le v (by omega)]
    refine ⟨?_, fun i => ?_⟩
    · show 17 = min (g ++ [v]).length 17
      rw [List.length_append, List.length_singleton]
      omega
    · rw [List.getElem?_append_left (by omega)]
      exact hbytes i

theorem keyLoaded_pushKeys (h : List Byte) {g : List Byte} {s : State} (hs : KeyLoaded g s) :
    KeyLoaded (g ++ h) (pushKeys h s) := by
  induction h generalizing g s with
  | nil => rwa [List.append_nil]
  | cons b h ih =>
    rw [pushKeys_cons, List.append_cons]
    exact ih (keyLoaded_pushKey hs b)

/-- R175: `KEYCLR` leaves the key of no bytes. -/
theorem keyLoaded_keyclrState (s : State) : KeyLoaded [] (keyclrState s) :=
  ⟨rfl, fun i => by simp [keyclrState]⟩

/-- Settles O42: `KEYCLR` starts from the key of no bytes, and each push appends one. -/
theorem keyLoadCountsTheBytes : Obligations.KeyLoadCountsTheBytes := by
  intro s h hp
  have hclear : step s = .next (deliver (h.map (.write 0x04)) none (keyclrState s)) :=
    (step_of_command hp (decode_encode .keyclr)).trans (exec_keyclr _)
  have hload : KeyLoaded h (pushKeys h (keyclrState s)) := keyLoaded_pushKeys h (keyLoaded_keyclrState s)
  have hkeyOk : keyOk (pushKeys h (keyclrState s)) = true ↔ h.length = 16 := by
    rw [keyOk_eq_decide, hload.count, decide_eq_true_iff]
    omega
  refine ⟨_, (after_succ _ hclear).trans (after_pushes h _), hload.count, ?_, hload.bytes, ?_⟩
  · rw [readWindow_status_keyOk]
    exact hkeyOk
  · rw [pushKeys_frame]
    rfl

/-! ## The system commands (R174 to R177) -/

/-- R31, R32: a command other than `NOP` does not read the report it overwrites. -/
theorem commandState_report {i : Instr} (hi : i ≠ .nop) (e rf : Byte) (s : State) :
    commandState i (report e rf s) = commandState i s := by
  cases i with
  | nop => contradiction
  | pack | nonce | crypt | encode | keyclr | srst => rfl

/-- Settles O7. -/
theorem nopResult : Obligations.NopResult := by
  refine ⟨exec_eq .nop, fun i s e rf hi => ?_⟩
  rw [exec_eq, exec_eq]
  exact congrArg _ (commandState_report hi e rf s)

/-- R35, R172: with a whole key in place a push no longer reaches it. -/
theorem pushKey_key_of_loaded {s : State} (hs : s.keyCnt = 16) (v : Byte) : (pushKey v s).key = s.key := by
  rw [pushKey_of_le v (by rw [hs]; decide)]

/-- Settles O12: of the three events that can change a key, a push leaves a whole one alone. -/
theorem keyclrResult : Obligations.KeyclrResult := by
  refine ⟨exec_keyclr, fun s t ht => ?_, fun s t ht hs hkey => ?_⟩
  · rw [exec_keyclr, next_inj] at ht
    subst ht
    rw [readWindow_status_keyOk]
    rfl
  · refine (keyChangesOnlyByKeyinKeyclrReset s t ht (.inl hkey)).resolve_left ?_
    rintro ⟨v, hv⟩
    obtain ⟨rest, hp⟩ := List.head?_eq_some_iff.1 hv
    rw [step_of_keyin v hp, next_inj] at ht
    subst ht
    exact hkey (pushKey_key_of_loaded (s := deliver rest none s) hs v)

/-- Settles O13: the model keeps `CTR` and `KS`, which R42 allows. -/
theorem srstResult : Obligations.SrstResult := fun s => ⟨s.ctr, s.ks, exec_srst s⟩

/-- R197: an error that names no flag only reports. -/
theorem raiseError_keep_flags (e rf : Byte) (s : State) : raiseError e rf false false false s = report e rf s := by
  simp [raiseError, setFlags, report]

/-- Settles O4. -/
theorem illegalCommandReports : Obligations.IllegalCommandReports := by
  intro s c rest hp hc
  rw [step_of_illegal hp (decode_of_seven_le hc), raiseError_keep_flags]
  rfl

end Sys2Proof.Machine
end

section
/-!
PROOFS. Errors (60_exceptions.md R191 to R194, R196, R197): the values `ERR` can hold after each command, the
cause of each bit of `ERR` and `RFIELD`, and what a fatal error leaves of the state.
-/

namespace Sys2Proof.Machine

/-! ## The values of `ERR` (R196) -/

/-- R196: a command that checks ranges only. -/
theorem errByte_range_warn_mem (r w : Bool) : errByte r false w false false ∈ [0x00, 0x01, 0x04, 0x05] := by
  revert r w; decide

/-- R196: a command that checks the key and the order of the commands. -/
theorem errByte_key_seq_mem (k q : Bool) : errByte false k false q false ∈ [0x00, 0x02, 0x08, 0x0A] := by
  revert k q; decide

/-- R196: a command that checks ranges and the key. -/
theorem errByte_range_key_warn_mem (r k w : Bool) :
    errByte r k w false false ∈ [0x00, 0x01, 0x02, 0x03, 0x04, 0x05, 0x06, 0x07] := by
  revert r k w; decide

/-- Settles O24: each command's report, with the bits that it never sets at 0. -/
theorem errValuesPerCommand : Obligations.ErrValuesPerCommand := by
  intro i s t ht
  rw [exec_eq, next_inj] at ht
  subst ht
  cases i with
  | nop | nonce | keyclr | srst => exact List.mem_singleton_self _
  | pack =>
    rw [commandState, (packState_report s).1]
    exact errByte_range_warn_mem _ _
  | crypt =>
    rw [commandState, (cryptState_report _ s).1]
    exact errByte_key_seq_mem _ _
  | encode =>
    rw [commandState, (encodeState_report _ s).1]
    exact errByte_range_key_warn_mem _ _ _

/-! ## The cause of each bit (R191 to R194) -/

/-- R191: bit `k` of `RFIELD` for a signed lane. -/
theorem rangeMask_getLsbD_signed {k : Fin 7} (hk : (fieldDesc k).signed = true) (v : Fin 7 → Int) :
    (rangeMask v).getLsbD k = true
      ↔ v k < -2 ^ ((fieldDesc k).width - 1) ∨ 2 ^ ((fieldDesc k).width - 1) - 1 < v k := by
  rw [rangeMask_getLsbD, laneFits, if_pos hk, Bool.not_eq_true', ← Bool.not_eq_true, fitsS_iff, not_and_or, not_le, not_le]

/-- R191: bit `k` of `RFIELD` for an unsigned lane. -/
theorem rangeMask_getLsbD_unsigned {k : Fin 7} (hk : (fieldDesc k).signed = false) (v : Fin 7 → Int) :
    (rangeMask v).getLsbD k = true ↔ v k < 0 ∨ 2 ^ (fieldDesc k).width - 1 < v k := by
  rw [rangeMask_getLsbD, laneFits, if_neg (by simp [hk]), Bool.not_eq_true', ← Bool.not_eq_true, fitsU_iff, not_and_or,
    not_le, not_le]

/-- R193: the lane is in its 16-bit range and above the mask. -/
theorem socWarn_iff (v : Fin 7 → Int) : socWarn v = true ↔ 0x3FFF < v 6 ∧ v 6 ≤ 0xFFFF := by
  have hfits : laneFits 6 (v 6) = true ↔ 0 ≤ v 6 ∧ v 6 ≤ 0xFFFF := fitsU_iff (v 6) 16
  have hmask : (Config.socMask : Int) = 0x3FFF := rfl
  rw [socWarn, Bool.and_eq_true, hfits, decide_eq_true_iff, hmask]
  omega

/-- R191, R193: `e` and `rf` report the range checks of the readings of `s` by their causes. -/
def ReportsRanges (s : State) (e rf : Byte) : Prop :=
  (e.getLsbD 0 = true ↔ rf ≠ 0)
    ∧ (rf.getLsbD 1 = true ↔ quant s.rVolt 100 < -32768 ∨ 32767 < quant s.rVolt 100)
    ∧ (rf.getLsbD 3 = true ↔ quant s.rAux 100 < -32768 ∨ 32767 < quant s.rAux 100)
    ∧ (rf.getLsbD 4 = true ↔ quant s.rCurr 1000 < -8388608 ∨ 8388607 < quant s.rCurr 1000)
    ∧ (rf.getLsbD 5 = true ↔ quant s.rCons 10 < -32768 ∨ 32767 < quant s.rCons 10)
    ∧ (rf.getLsbD 6 = true ↔ quant s.rSoc 10 < 0 ∨ 65535 < quant s.rSoc 10)
    ∧ (e.getLsbD 2 = true ↔ 0x3FFF < quant s.rSoc 10 ∧ quant s.rSoc 10 ≤ 0xFFFF)

/-- R196: whatever the other bits report. -/
theorem reportsRanges_errByte (s : State) (k q c : Bool) :
    ReportsRanges s (errByte (anyFail (fieldValues s)) k (socWarn (fieldValues s)) q c) (rangeMask (fieldValues s)) := by
  obtain ⟨hrange, _, hwarn, _⟩ := errByte_bits (anyFail (fieldValues s)) k (socWarn (fieldValues s)) q c
  refine ⟨?_, rangeMask_getLsbD_signed (k := 1) rfl _, rangeMask_getLsbD_signed (k := 3) rfl _,
    rangeMask_getLsbD_signed (k := 4) rfl _, rangeMask_getLsbD_signed (k := 5) rfl _,
    rangeMask_getLsbD_unsigned (k := 6) rfl _, ?_⟩
  · rw [hrange, ne_eq, rangeMask_eq_zero, Bool.not_eq_false]
  · rw [hwarn]
    exact socWarn_iff _

theorem reportsRanges_packState (s : State) : ReportsRanges s (packState s).err (packState s).rfield := by
  rw [(packState_report s).1, (packState_report s).2]
  exact reportsRanges_errByte s _ _ _

theorem reportsRanges_encodeState (enc : Block → Block → Block) (s : State) :
    ReportsRanges s (encodeState enc s).err (encodeState enc s).rfield := by
  rw [(encodeState_report enc s).1, (encodeState_report enc s).2]
  exact reportsRanges_errByte s _ _ _

/-- R192: `E_KEY`, whatever the other bits report. -/
theorem errByte_eKey (s : State) (r w q c : Bool) :
    (errByte r (!keyOk s) w q c).getLsbD 1 = true ↔ s.keyCnt.toNat ≠ 16 := by
  obtain ⟨_, hkey, _⟩ := errByte_bits r (!keyOk s) w q c
  rw [hkey, keyOk_eq_decide, Bool.not_eq_true', decide_eq_false_iff_not]

/-- R194: `E_SEQ` after `CRYPT`. -/
theorem cryptState_eSeq (enc : Block → Block → Block) (s : State) :
    (cryptState enc s).err.getLsbD 3 = true ↔ s.pvalid = false ∨ s.nvalid = false := by
  obtain ⟨_, _, _, hseq, _⟩ := errByte_bits false (!keyOk s) false (!(s.pvalid && s.nvalid)) false
  rw [(cryptState_report enc s).1, hseq, Bool.not_eq_true', Bool.and_eq_false_iff]

/-- Settles O25, cause by cause. -/
theorem errorBitsHaveTheirCauses : Obligations.ErrorBitsHaveTheirCauses := by
  intro i s t ht
  rw [exec_eq, next_inj] at ht
  subst ht
  refine ⟨?_, ?_, ?_⟩
  · rintro (rfl | rfl)
    · exact reportsRanges_packState s
    · exact reportsRanges_encodeState _ s
  · rintro (rfl | rfl)
    · rw [commandState, (cryptState_report _ s).1]
      exact errByte_eKey s _ _ _ _
    · rw [commandState, (encodeState_report _ s).1]
      exact errByte_eKey s _ _ _ _
  · rintro rfl
    exact cryptState_eSeq _ s

/-! ## A fatal error (R197) -/

/-- R196: the bits of 0x1B are the four causes that are no warning. -/
theorem errByte_and_fatal (r k w q c : Bool) : errByte r k w q c &&& 0x1B ≠ 0 ↔ (r || k || q || c) = true := by
  rw [← isFatal_errByte r k w q c, isFatal, bne_iff_ne]

/-- R115, R197: a range is the only thing `PACK` checks that is fatal. -/
theorem packState_of_fatal {s : State} (h : (packState s).err &&& 0x1B ≠ 0) :
    packState s = { s with
      err := (packState s).err, rfield := (packState s).rfield, pvalid := false, ovalid := false } := by
  rw [(packState_report s).1, errByte_and_fatal] at h
  rw [packState_of_fail (by simpa using h)]
  simp [raiseError, setFlags, report]

/-- R145, R197: every error of `CRYPT` is fatal. -/
theorem cryptState_of_fatal {enc : Block → Block → Block} {s : State} (h : (cryptState enc s).err &&& 0x1B ≠ 0) :
    cryptState enc s = { s with err := (cryptState enc s).err, rfield := (cryptState enc s).rfield, ovalid := false } := by
  have herr : (cryptState enc s).err ≠ 0x00 := fun h0 => h (by rw [h0]; rfl)
  rw [(cryptState_report enc s).2]
  exact (cryptState_eq enc s).trans (if_neg herr)

/-- R160, R197: the fatal bits of `ENCODE` are its failures, `E_RANGE` and `E_KEY`. -/
theorem encodeState_of_fatal {enc : Block → Block → Block} {s : State} (h : (encodeState enc s).err &&& 0x1B ≠ 0) :
    encodeState enc s = { s with
      err := (encodeState enc s).err, rfield := (encodeState enc s).rfield
      pvalid := false, nvalid := false, ovalid := false } := by
  refine encodeState_of_failure fun hok => ?_
  obtain ⟨hv, hk⟩ := (encodeState_err_and_three enc s).1 hok
  rw [(encodeState_report enc s).1, errByte_and_fatal, hv, hk] at h
  exact absurd h (by decide)

/-- Settles O26. -/
theorem fatalErrorsWriteNoResult : Obligations.FatalErrorsWriteNoResult := by
  intro i s t ht hfatal
  rw [exec_eq, next_inj] at ht
  subst ht
  refine ⟨?_, ?_, ?_⟩ <;> rintro rfl
  · exact packState_of_fatal hfatal
  · exact cryptState_of_fatal hfatal
  · exact encodeState_of_fatal hfatal

end Sys2Proof.Machine
end

section
/-!
PROOFS. Reset and hazards (R220, R221, R226): the two resets, what works straight after reset, the keystream that two
`ENCODE`s share, and the steps that write `OBUF`.
-/

namespace Sys2Proof.Machine

open Sys2Proof.Safety

/-! ## A nonce used twice (R147, R226) -/

/-- R131, R160: the keystream block of a successful `ENCODE` comes from the key and the header alone. -/
theorem encodeState_keystream_congr (enc : Block → Block → Block) {s t : State} (hkey : SameKey s t)
    (hheader : SameHeader s t) (hs : (encodeState enc s).err &&& 0x03 = 0) (ht : (encodeState enc t).err &&& 0x03 = 0) :
    enc s.key (encodeState enc s).nonce = enc t.key (encodeState enc t).nonce := by
  obtain ⟨hkey, _⟩ := hkey
  obtain ⟨hmodel, hreadout, hiv⟩ := hheader
  obtain ⟨_, hnonce, _⟩ := encodeState_results hs
  obtain ⟨_, hnonce', _⟩ := encodeState_results ht
  rw [hnonce, hnonce', hkey, hmodel, hreadout, hiv]

/-- Settles O37: the same keystream byte meets both payloads, and cancels. -/
theorem nonceReuseLeaksTheXor : Obligations.NonceReuseLeaksTheXor := by
  intro s t s' t' hkey hheader hs ht hok hok' i
  rw [exec_encode, next_inj] at hs ht
  subst hs ht
  rw [encodeState_obuf hok, encodeState_obuf hok', encodeState_keystream_congr _ hkey hheader hok hok']
  simp only [Fin.getElem_fin, getElem_xorPayload _ _ _ i.isLt]
  exact xor_xor_xor_right _ _ _

/-! ## What writes `OBUF` (R39, R149) -/

/-- R34. -/
theorem keyOk_iff (s : State) : keyOk s = true ↔ s.keyCnt = 16 := beq_iff_eq

/-- R145: `CRYPT` writes `OBUF` with a whole key only. -/
theorem cryptState_obuf_cases (enc : Block → Block → Block) (s : State) :
    (cryptState enc s).obuf = s.obuf ∨ (s.keyCnt = 16 ∧ (cryptState enc s).ovalid = true) := by
  rcases cryptState_cases enc s with ⟨_, h⟩ | ⟨hk, _, _, h⟩ <;> rw [h]
  · exact .inl rfl
  · exact .inr ⟨(keyOk_iff s).1 hk, rfl⟩

/-- R160: `ENCODE` writes `OBUF` with a whole key only. -/
theorem encodeState_obuf_cases (enc : Block → Block → Block) (s : State) :
    (encodeState enc s).obuf = s.obuf ∨ (s.keyCnt = 16 ∧ (encodeState enc s).ovalid = true) := by
  rcases encodeState_cases enc s with ⟨_, h⟩ | ⟨_, hk, h⟩ <;> rw [h]
  · exact .inl rfl
  · exact .inr ⟨(keyOk_iff s).1 hk, rfl⟩

/-- R39: what a command can do to `OBUF`. -/
theorem commandState_obuf_cases (i : Instr) (s : State) :
    (commandState i s).obuf = s.obuf
      ∨ (i = .srst ∧ (commandState i s).obuf = Vector.replicate 15 0)
      ∨ ((i = .crypt ∨ i = .encode) ∧ s.keyCnt = 16 ∧ (commandState i s).ovalid = true) := by
  cases i with
  | nop | nonce | keyclr => exact .inl rfl
  | pack => rw [commandState, packState_frame]; exact .inl rfl
  | crypt => exact (cryptState_obuf_cases _ s).imp_right fun h => .inr ⟨.inl rfl, h⟩
  | encode => exact (encodeState_obuf_cases _ s).imp_right fun h => .inr ⟨.inr rfl, h⟩
  | srst => exact .inr (.inl ⟨rfl, rfl⟩)

/-- Settles O50: of the events only the reset and the commands reach `OBUF`. -/
theorem noCiphertextWithoutAKey : Obligations.NoCiphertextWithoutAKey := by
  intro s t h
  cases stepsTo_of_step h with
  | idle | read | pbuf | illegal => exact .inl rfl
  | reset hp => exact .inr (.inl ⟨rfl, .inr ((delivers_iff hp _).2 rfl)⟩)
  | keyin => rw [pushKey_frame]; exact .inl rfl
  | register _ _ h4 hpbuf => rw [writeWindow_register _ _ h4 hpbuf]; exact .inl rfl
  | command i hp =>
    have hruns : Runs s (encode i) := (runs_iff hp _).2 rfl
    rcases commandState_obuf_cases i (deliver _ none s) with hkeep | ⟨rfl, hzero⟩ | ⟨hi, hcnt, hovalid⟩
    · exact .inl hkeep
    · exact .inr (.inl ⟨hzero, .inl hruns⟩)
    · refine .inr (.inr ⟨hcnt, hovalid, ?_⟩)
      rcases hi with rfl | rfl
      · exact .inl hruns
      · exact .inr hruns

/-! ## The reset event and `SRST` (R176, R220) -/

/-- R220: the step that delivers the reset event. -/
theorem eq_hardwareReset_of_step {s t : State} (hd : Delivers s .reset) (h : step s = .next t) :
    ∃ rest, t = hardwareReset rest := by
  obtain ⟨rest, hp⟩ := List.head?_eq_some_iff.1 hd
  rw [step_of_reset hp, next_inj] at h
  exact ⟨rest, h.symm⟩

/-- R45, R176: an `SRST` after the reset event would find nothing to clear. -/
theorem srstState_hardwareReset (rest : List HostEvent) : srstState (hardwareReset rest) = hardwareReset rest := rfl

/-- Settles O48: both resets leave a state that `SRST` could have left, and `SRST` alone keeps the key. -/
theorem resetEventClearsEverything : Obligations.ResetEventClearsEverything := by
  intro s t h
  have hreset : Delivers s .reset ∧ step s = .next t → ∃ rest, t = hardwareReset rest :=
    fun ⟨hd, hstep⟩ => eq_hardwareReset_of_step hd hstep
  have hsrst (hx : exec .srst s = .next t) : t = srstState s := (next_inj.1 hx).symm
  have hkeyReset (hd : Delivers s .reset ∧ step s = .next t) : t.keyCnt = 0 ∧ t.key = Vector.replicate 16 0 := by
    obtain ⟨rest, rfl⟩ := hreset hd
    exact ⟨rfl, rfl⟩
  have hkeySrst (hx : exec .srst s = .next t) : t.keyCnt = s.keyCnt ∧ t.key = s.key := by
    rw [hsrst hx]
    exact ⟨rfl, rfl⟩
  have hcleared : ∃ u, t = srstState u := by
    rcases h with hd | hx
    · obtain ⟨rest, rfl⟩ := hreset hd
      exact ⟨_, (srstState_hardwareReset rest).symm⟩
    · exact ⟨s, hsrst hx⟩
  obtain ⟨u, rfl⟩ := hcleared
  exact ⟨rfl, rfl, rfl, rfl, rfl, rfl, rfl, rfl, rfl, rfl, rfl, rfl, rfl, rfl, rfl, rfl, rfl, rfl, hkeyReset, hkeySrst⟩

/-! ## Straight after reset (R221) -/

theorem locate_eq_rectype (a : Addr) : locate a = .rectype ↔ a = 0x06 := by
  revert a; exact forall_addr (by decide)

theorem locate_eq_out_zero (a : Addr) : locate a = .out 0 ↔ a = 0x50 := by
  revert a; exact forall_addr (by decide)

theorem byteOf_zero (w i : Nat) : byteOf (0 : BitVec w) i = 0 := BitVec.extractLsb'_zero

/-- R45, R92: the record of an empty nonce and an empty `OBUF` is its type byte. -/
theorem outByte_reset (i : Fin 21) : outByte State.reset i = if i = 0 then Config.recordType else 0x00 := by
  fin_cases i <;> rfl

/-- R45: a location reads zero after reset, the two that show `RECORD_TYPE` apart. -/
theorem readLoc_reset (l : Loc) :
    readLoc State.reset l = if l = .rectype ∨ l = .out 0 then Config.recordType else 0x00 := by
  cases l with
  | cmd | status | err | rfield | keyin | keycnt | rectype | readout | reserved => rfl
  | modelid | iv | ttg | volt | alarm | aux | curr | cons | soc => exact byteOf_zero _ _
  | pbuf | nonce => exact Vector.getElem_replicate _
  | out i => simp [readLoc, outByte_reset]

theorem readWindow_reset (a : Addr) :
    readWindow State.reset a = if a = 0x06 ∨ a = 0x50 then Config.recordType else 0x00 := by
  simp only [readWindow, readLoc_reset, locate_eq_rectype, locate_eq_out_zero]

/-- R84: readings of zero give fields of zero. -/
theorem fieldValues_reset (k : Fin 7) : fieldValues State.reset k = 0 := by
  revert k; decide

theorem anyFail_reset : anyFail (fieldValues State.reset) = false := by
  rw [anyFail_eq_false]
  intro k
  rw [fieldValues_reset]
  revert k
  decide

theorem socWarn_reset : socWarn (fieldValues State.reset) = false := by
  rw [socWarn, fieldValues_reset]
  decide

theorem packState_reset :
    packState State.reset = setFlags true false false (storePayload (Vector.replicate 15 0) (report 0 0 State.reset)) := by
  have hpayload : payloadOf (fieldValues State.reset) = Vector.replicate 15 0 := by
    rw [funext fieldValues_reset]
    decide
  rw [packState_of_pass anyFail_reset, socWarn_reset, hpayload]
  rfl

/-- Settles O49: without a key `CRYPT` and `ENCODE` fail, and `PACK` and `NONCE` take the other cause of `CRYPT` away. -/
theorem whatWorksAfterReset : Obligations.WhatWorksAfterReset := by
  have hcrypt : (cryptState Config.blockEnc State.reset).err = 0x0A := by
    rw [(cryptState_report _ _).1]
    rfl
  have hencode : (encodeState Config.blockEnc State.reset).err = 0x02 := by
    rw [(encodeState_report _ _).1, anyFail_reset, socWarn_reset]
    rfl
  have harmed : (cryptState Config.blockEnc (nonceState (packState State.reset))).err = 0x02 := by
    rw [(cryptState_report _ _).1, packState_reset]
    rfl
  have hnonce : (nonceState (packState State.reset)).nonce = Vector.replicate 16 0 := by
    rw [nonceState_packState_nonce]
    decide
  exact ⟨readWindow_reset, ⟨_, exec_crypt _, hcrypt⟩, ⟨_, exec_encode _, hencode⟩,
    _, _, _, exec_pack _, congrArg State.pbuf packState_reset, congrArg State.err packState_reset,
    congrArg State.pvalid packState_reset, exec_nonce _, hnonce, exec_crypt _, harmed⟩

end Sys2Proof.Machine
end

section
/-!
PROOFS. The idle port (assumption log 2, R207).
-/

namespace Sys2Proof.Machine

/-- Settles O6, by the equation of the step for the empty port: the model's choice (log 2). -/
theorem idleHoldsTheState : Obligations.IdleHoldsTheState :=
  fun _ hidle => step_of_idle hidle

end Sys2Proof.Machine
end
